-- ==== Sys2Proof/Word.lean ====
section
/-! DEFINITION. The two data widths of the block: `u8` and `u16` of spec/00_scope.md rule R8. -/

namespace Sys2Proof

/-- `u8`, "the document's byte" (R8): an unsigned 8-bit value, bit 0 the least significant. -/
abbrev Byte := BitVec 8

/-- `u16`, "the document's word" (R8): an unsigned 16-bit value. -/
abbrev Word := BitVec 16

end Sys2Proof
end

