-- ==== Sys2Proof/Config.lean ====
section
/-! DEFINITION. The parameters that spec/00_scope.md rule R7 and spec/93_implementation_defined.md leave open.
Each is a constant without a body: nothing can be proved of its value ("a proof may not lean on" a default,
93 section 1), so a theorem holds for every choice of it. `OPSEL_MAP` is open too: it is the field `State.opsel`, over which
claims quantify (log entry 2). The parameters to which the spec gives a value stand in Sys2Proof/Machine/Params.lean. -/

namespace Sys2Proof.Config

/-- `CMD_VAR_WRITE`, the command byte of a variable write frame (R7, R74; D12, U15; log entry 3). -/
opaque cmdVarWrite : Byte

/-- `CMD_VAR_READ`, the command byte of a variable read request and response (R7, R74; D12, U15; log entry 3). -/
opaque cmdVarRead : Byte

/-- `RTC_NOW_ADDR`, the register address of the RTC "now" buffer (R7, R46, R73; D13, U15; log entry 3). -/
opaque rtcNowAddr : Byte

/-- `RTC_COMMIT_ADDR`, the register address of the RTC "commit" buffer (R7, R46, R72; D13, U15; log entry 3). -/
opaque rtcCommitAddr : Byte

/-- `ENC_BCD_OOR`, what `encodeBCD` answers for an input of 100 to 255 (R7, R90; D8, U1; log entry 4). -/
opaque encBcdOor : Byte → Byte

/-- `POLL_CHECK_HDR_L`, whether `pollEvent` compares header byte low (R7, R150; D16, U16; log entry 5). -/
opaque pollCheckHdrL : Bool

/-- `DT_DEFAULT_WEEK` (R7, R111; D11, U19; log entry 6): any byte, the range of the field. -/
opaque dtDefaultWeek : Byte

/-- `DT_DEFAULT_HOUR` (R7, R111; D11, U19; log entry 6): "within its field's range", 0 to 23. -/
opaque dtDefaultHour : Fin 24

/-- `DT_DEFAULT_MINUTE` (R7, R111; D11, U19; log entry 6): "within its field's range", 0 to 59. -/
opaque dtDefaultMinute : Fin 60

/-- `DT_DEFAULT_SECOND` (R7, R111; D11, U19; log entry 6): "within its field's range", 0 to 59. -/
opaque dtDefaultSecond : Fin 60

/-- The choice R140 (d) leaves to the implementation, at a byte that arrives exactly when the wait expires and at
every call with a timeout of 0: `true`, the byte is returned; `false`, 0 is returned and the byte stays (D5, U2, U3;
log entry 7). The argument is the number of the call, so two calls may choose differently. -/
opaque rbtBoundary : Nat → Bool

end Sys2Proof.Config
end

