-- ==== Sys2Proof/Syntax.lean ====
section
/-! DEFINITION. The operations and formats of the block, one constructor of `Instr` per row of spec/opcode_table.json,
with the value types of their operands (spec/10_state.md rules R30, R32; spec/30_encoding.md rules R60 to R73, R81, R82). -/

namespace Sys2Proof

/-- `DateTimeValue`, `dt` of R30: "a record of seven fields, each held as a `u8`". The year is the offset from 2000. -/
structure DateTime where
  year : Byte
  month : Byte
  day : Byte
  week : Byte
  hour : Byte
  minute : Byte
  second : Byte
deriving DecidableEq, Repr

/-- Format `DT7` of R62: the seven BCD bytes of a date-time buffer, in wire order. -/
structure DT7 where
  year : Byte
  month : Byte
  day : Byte
  week : Byte
  hour : Byte
  minute : Byte
  second : Byte
deriving DecidableEq, Repr

/-- The operations that the host selects by an OPSEL code (R81), in the order of R81's table. -/
inductive Operation where
  | encodeBCD | decodeBCD | packWord | unpackWord | dateTimeFull | dateTimeDateOnly | setYear | setYearOffset
  | setMonth | setDay | setWeek | setHour | setMinute | setSecond | toBCD | fromBCD | getYear | getMonth
  | getDay | getWeek | getHour | getMinute | getSecond | sendFrameHeader | sendByte | sendWord | sendBuffer
  | readByteWithTimeout | drainInput | readExpectedFrameReg | readExpectedFrameVar | writeRegister
  | writeRegisterByte | writeRegisterWord | readRegister | readRegisterByte | readRegisterWord | writeVariable
  | writeVariableWord | readVariable | readVariableWord | getRTC | setRTC | pollEvent | construct | setTimeout
deriving DecidableEq, Repr

/-- `OPSEL_MAP`, the "numbering of operations on the host interface" (R7, R81): each operation with its 8-bit code. It is OPEN, so
every claim is made for every map (log entry 2). -/
abbrev OpselMap := List (Operation × Byte)

/-- The "format" column of spec/opcode_table.json: operations are selected by an OPSEL code, every other row is a format. -/
inductive Format where
  | opsel | fRW | fRRQ | fRRS | fVW | fVRQ | fVRS | fEV | fRWRtcSet | bcd8 | w16 | dt7
deriving DecidableEq, Repr

/-- One unit of work as bytes (log entry 2): for `opsel`, the OPSEL code and the operands (R81, and the "encoding" columns of
spec/95_test_vectors.md programs P1 to P5); for a frame of the block, the frame from its length byte on (its two header
bytes are session state, R63); for a frame of the device, the whole frame; for a data format, its bytes. -/
structure Packet where
  format : Format
  bytes : List Byte
deriving DecidableEq, Repr

/-- Why a packet is no instruction. -/
inductive DecodeError where
  /-- The packet is empty. -/
  | empty
  /-- No operation of the map has this code: "Every other `OPSEL` value selects no operation; a model refuses it" (R81). -/
  | unassignedOpsel (code : Byte)
  /-- The number of operand bytes is not the operation's (R82). -/
  | operandCount
  /-- The channel operand of `construct` is none of the values log entry 2 gives it. -/
  | channelCode
  /-- Words are byte pairs: "An odd number of data bytes cannot be expressed" (R127). -/
  | oddData
  /-- The command byte is not the format's (R74). -/
  | wrongCommand
  /-- The frame length byte or the count byte disagrees with the bytes that follow it (R64). -/
  | wrongLength
  /-- A fixed byte of the RTC set frame (its address, its marker) differs (R72). -/
  | wrongFixedByte
deriving DecidableEq, Repr

/-- The instructions: the 46 operations, the 8 frame formats and the 3 data formats of spec/opcode_table.json. -/
inductive Instr where
  /-- `encodeBCD` (R90). -/
  | encodeBCD (value : Byte)
  /-- `decodeBCD` (R91). -/
  | decodeBCD (b : Byte)
  /-- `packWord` (R92). -/
  | packWord (high low : Byte)
  /-- `unpackWord` (R93). -/
  | unpackWord (w : Word)
  /-- `DateTimeValue` (full) (R110): the full year, then the six fields. -/
  | dateTimeFull (year : Word) (month day week hour minute second : Byte)
  /-- `DateTimeValue` (date only) (R111). -/
  | dateTimeDateOnly (year : Word) (month day : Byte)
  /-- `setYear` (R101): the full year. -/
  | setYear (dt : DateTime) (y : Word)
  /-- `setYearOffset` (R102). -/
  | setYearOffset (dt : DateTime) (v : Byte)
  /-- `setMonth` (R103). -/
  | setMonth (dt : DateTime) (v : Byte)
  /-- `setDay` (R104). -/
  | setDay (dt : DateTime) (v : Byte)
  /-- `setWeek` (R105). -/
  | setWeek (dt : DateTime) (v : Byte)
  /-- `setHour` (R106). -/
  | setHour (dt : DateTime) (v : Byte)
  /-- `setMinute` (R107). -/
  | setMinute (dt : DateTime) (v : Byte)
  /-- `setSecond` (R108). -/
  | setSecond (dt : DateTime) (v : Byte)
  /-- `toBCD` (R112). -/
  | toBCD (dt : DateTime)
  /-- `fromBCD` (R113). -/
  | fromBCD (buffer : DT7)
  /-- `getYear` (R109). -/
  | getYear (dt : DateTime)
  /-- `getMonth` (R109). -/
  | getMonth (dt : DateTime)
  /-- `getDay` (R109). -/
  | getDay (dt : DateTime)
  /-- `getWeek` (R109). -/
  | getWeek (dt : DateTime)
  /-- `getHour` (R109). -/
  | getHour (dt : DateTime)
  /-- `getMinute` (R109). -/
  | getMinute (dt : DateTime)
  /-- `getSecond` (R109). -/
  | getSecond (dt : DateTime)
  /-- `sendFrameHeader` (R120): the operands are (command, length). -/
  | sendFrameHeader (command length : Byte)
  /-- `sendByte` (R121). -/
  | sendByte (b : Byte)
  /-- `sendWord` (R122). -/
  | sendWord (w : Word)
  /-- `sendBuffer` (R123): any number of bytes, 0 allowed. -/
  | sendBuffer (bytes : List Byte)
  /-- `readByteWithTimeout` (R140). -/
  | readByteWithTimeout
  /-- `drainInput` (R141). -/
  | drainInput
  /-- `readExpectedFrame`, register mode (R142). -/
  | readExpectedFrameReg (expectedCommand expectedAddress expectedDataLen : Byte)
  /-- `readExpectedFrame`, variable mode (R143). -/
  | readExpectedFrameVar (expectedCommand : Byte) (expectedAddress : Word) (expectedDataLen : Byte)
  /-- `writeRegister` (R124). -/
  | writeRegister (addr : Byte) (data : List Byte)
  /-- `writeRegisterByte` (R125). -/
  | writeRegisterByte (addr b : Byte)
  /-- `writeRegisterWord` (R126). -/
  | writeRegisterWord (addr : Byte) (w : Word)
  /-- `readRegister` (R144). -/
  | readRegister (addr buffLen : Byte)
  /-- `readRegisterByte` (R145). -/
  | readRegisterByte (addr : Byte)
  /-- `readRegisterWord` (R146). -/
  | readRegisterWord (addr : Byte)
  /-- `writeVariable` (R127): the data is "`wordCount` byte pairs", sent unchanged. -/
  | writeVariable (addr : Word) (data : List (Byte × Byte))
  /-- `writeVariableWord` (R128). -/
  | writeVariableWord (addr w : Word)
  /-- `readVariable` (R147). -/
  | readVariable (addr : Word) (wordCount : Byte)
  /-- `readVariableWord` (R148). -/
  | readVariableWord (addr : Word)
  /-- `getRTC` (R149). -/
  | getRTC
  /-- `setRTC` (R129). -/
  | setRTC (value : DateTime)
  /-- `pollEvent` (R150). -/
  | pollEvent (maxWords : Byte)
  /-- `construct` (R160): the two header bytes, each with a default (0xA5, 0x5A) taken where the host gives none, and whether a
  channel is present. -/
  | construct (headerHigh headerLow : Option Byte) (channel : Bool)
  /-- `setTimeout` (R161): a number of milliseconds ("a model may use an unbounded natural", R7). -/
  | setTimeout (ms : Nat)
  /-- Format `F_RW` (R65), block to device: one register write frame. -/
  | fRW (addr : Byte) (data : List Byte)
  /-- Format `F_RRQ` (R66), block to device: one register read request. -/
  | fRRQ (addr count : Byte)
  /-- Format `F_RRS` (R67), device to block: one register read response, with the header bytes the device sends. -/
  | fRRS (h l addr : Byte) (data : List Byte)
  /-- Format `F_VW` (R68), block to device: one variable write frame. -/
  | fVW (addr : Word) (data : List (Byte × Byte))
  /-- Format `F_VRQ` (R69), block to device: one variable read request. -/
  | fVRQ (addr : Word) (count : Byte)
  /-- Format `F_VRS` (R70), device to block: one variable read response. -/
  | fVRS (h l : Byte) (addr : Word) (words : List Word)
  /-- Format `F_EV` (R71), device to block: one unsolicited event; any command byte. -/
  | fEV (h l command : Byte) (addr : Word) (words : List Word)
  /-- Format `F_RW.rtc_set` (R72), block to device: the RTC set frame with its seven BCD bytes. -/
  | fRWRtcSet (time : DT7)
  /-- Format `BCD8` (R60): one byte as its two nibbles. -/
  | bcd8 (tens ones : BitVec 4)
  /-- Format `W16` (R61): one word as its two bytes. -/
  | w16 (high low : Byte)
  /-- Format `DT7` (R62): the seven bytes of a date-time buffer. -/
  | dt7 (buffer : DT7)
deriving DecidableEq, Repr

end Sys2Proof
end

