-- ==== Sys2Proof/Machine/Params.lean ====
section
/-! DEFINITION. The parameters to which spec/00_scope.md rule R7 gives a value, and R81's default for `OPSEL_MAP`. The open ones
are Sys2Proof/Config.lean, and the field `State.opsel` for `OPSEL_MAP`. -/

namespace Sys2Proof.Machine

/-- `HDR_H_INIT`, default 0xA5 (R7, R33). -/
def hdrHInit : Byte := 0xA5#8

/-- `HDR_L_INIT`, default 0x5A (R7, R33). -/
def hdrLInit : Byte := 0x5A#8

/-- `TIMEOUT_INIT`, 200 ms (R7, R33). -/
def timeoutInit : Nat := 200

/-- `CMD_REG_WRITE`, 0x80 (R7, R74). -/
def cmdRegWrite : Byte := 0x80#8

/-- `CMD_REG_READ`, 0x81 (R7, R74). -/
def cmdRegRead : Byte := 0x81#8

/-- `RTC_APPLY_MARKER`, 0x5A (R7, R72); not related to the header byte of the same value (R129). -/
def rtcApplyMarker : Byte := 0x5A#8

/-- `EPOCH`, the year that year offset 0 stands for (R7). -/
def epoch : Nat := 2000

/-- `MAX_REG_WRITE_LEN` (R7, R64). -/
def maxRegWriteLen : Nat := 253

/-- `MAX_VAR_WRITE_WORDS` (R7, R64). -/
def maxVarWriteWords : Nat := 126

/-- `MAX_REG_READ_LEN` (R7, R64). -/
def maxRegReadLen : Nat := 252

/-- `MAX_VAR_READ_WORDS` (R7, R64). -/
def maxVarReadWords : Nat := 125

/-- The default of `OPSEL_MAP`: the table of R81, the numbering of spec/opcode_table.json (D2). No claim but those about
`decodeTableWord` and R81's own numbers is about this map alone (log entry 2). -/
def opselDefault : OpselMap :=
  [(.encodeBCD, 0x01), (.decodeBCD, 0x02), (.packWord, 0x03), (.unpackWord, 0x04), (.dateTimeFull, 0x10),
    (.dateTimeDateOnly, 0x11), (.setYear, 0x12), (.setYearOffset, 0x13), (.setMonth, 0x14), (.setDay, 0x15),
    (.setWeek, 0x16), (.setHour, 0x17), (.setMinute, 0x18), (.setSecond, 0x19), (.toBCD, 0x1A),
    (.fromBCD, 0x1B), (.getYear, 0x20), (.getMonth, 0x21), (.getDay, 0x22), (.getWeek, 0x23), (.getHour, 0x24),
    (.getMinute, 0x25), (.getSecond, 0x26), (.sendFrameHeader, 0x30), (.sendByte, 0x31), (.sendWord, 0x32),
    (.sendBuffer, 0x33), (.readByteWithTimeout, 0x34), (.drainInput, 0x35), (.readExpectedFrameReg, 0x36),
    (.readExpectedFrameVar, 0x37), (.writeRegister, 0x40), (.writeRegisterByte, 0x41),
    (.writeRegisterWord, 0x42), (.readRegister, 0x43), (.readRegisterByte, 0x44), (.readRegisterWord, 0x45),
    (.writeVariable, 0x46), (.writeVariableWord, 0x47), (.readVariable, 0x48), (.readVariableWord, 0x49),
    (.getRTC, 0x4A), (.setRTC, 0x4B), (.pollEvent, 0x4C), (.construct, 0x50), (.setTimeout, 0x51)]

end Sys2Proof.Machine
end

