-- ==== Sys2Proof/Machine/Operands.lean ====
section
/-! DEFINITION. The operand and data forms of the block: words as byte pairs, BCD bytes, the clamp, and the bytes of
every frame format (spec/30_encoding.md, spec/40_bytecodec.md rules R90 to R93, spec/41_datetime.md rule R100).
Nothing here reads the state. -/

namespace Sys2Proof.Machine

/-- The byte with the low eight bits of a natural number: `trunc8` of R8. -/
def trunc8 (n : Nat) : Byte := BitVec.ofNat 8 n

/-- `w[15:8]` (R8). -/
def highByte (w : Word) : Byte := w.extractLsb' 8 8

/-- `w[7:0]` (R8). -/
def lowByte (w : Word) : Byte := w.extractLsb' 0 8

/-- `packWord` (R92): `(zext_16(high) << 8) | zext_16(low)`. -/
def packWord (high low : Byte) : Word := (high.zeroExtend 16 <<< 8) ||| low.zeroExtend 16

/-- `b[7:4]` (R8, R60). -/
def highNibble (b : Byte) : BitVec 4 := b.extractLsb' 4 4

/-- `b[3:0]` (R8, R60). -/
def lowNibble (b : Byte) : BitVec 4 := b.extractLsb' 0 4

/-- The byte with the two nibbles: `(tens << 4) | ones` (R60). -/
def packNibbles (tens ones : BitVec 4) : Byte := (tens.zeroExtend 8 <<< 4) ||| ones.zeroExtend 8

/-- The value of the two nibbles of a BCD byte, "`ones + 10*tens`" (R60, R91): at most 165, so the byte holds it. -/
def nibblesValue (tens ones : BitVec 4) : Byte := trunc8 (ones.toNat + 10 * tens.toNat)

/-- `encodeBCD` (R90): the two decimal digits of a value up to 99; the open function `ENC_BCD_OOR` above. -/
def encodeBCD (value : Byte) : Byte :=
  if value.toNat ≤ 99 then trunc8 (((value.toNat / 10) <<< 4) ||| (value.toNat % 10)) else Config.encBcdOor value

/-- `decodeBCD` (R91): each nibble at its face value, 0 to 15. -/
def decodeBCD (b : Byte) : Byte := nibblesValue (highNibble b) (lowNibble b)

/-- `clamp(v, lo, hi)`, "computed on `int`" (R8, R100). -/
def clamp (v lo hi : Int) : Int := if v < lo then lo else if hi < v then hi else v

/-- A byte operand clamped into a field's range (R100). -/
def clampByte (v : Byte) (lo hi : Int) : Byte := BitVec.ofInt 8 (clamp v.toNat lo hi)

/-- A full year as the offset a `dt` holds: "computed on int, no wrap-around" (R101). -/
def clampYear (y : Word) : Byte := BitVec.ofInt 8 (clamp ((y.toNat : Int) - (epoch : Int)) 0 99)

/-- The seven fields of a record of bytes, in the order {year, month, day, week, hour, minute, second}. -/
def dateTimeBytes (d : DateTime) : List Byte := [d.year, d.month, d.day, d.week, d.hour, d.minute, d.second]

/-- The seven bytes of a `DT7` buffer in wire order (R62). -/
def dt7Bytes (b : DT7) : List Byte := [b.year, b.month, b.day, b.week, b.hour, b.minute, b.second]

/-- A received buffer read as `DT7`: byte offset k is field k (R62). -/
def dt7OfBytes (data : List Byte) : DT7 :=
  ⟨data.getD 0 0, data.getD 1 0, data.getD 2 0, data.getD 3 0, data.getD 4 0, data.getD 5 0, data.getD 6 0⟩

/-- Words on the wire, each "high byte first" (R61, R70, R71). -/
def wordBytes : List Word → List Byte
  | [] => []
  | w :: ws => highByte w :: lowByte w :: wordBytes ws

/-- Byte pairs in the order given (R68). -/
def pairBytes : List (Byte × Byte) → List Byte
  | [] => []
  | p :: ps => p.1 :: p.2 :: pairBytes ps

/-- `F_RW` from its length byte on (R65): `[2 + dataLen][0x80][address][data]`. -/
def bodyRW (addr : Byte) (data : List Byte) : List Byte :=
  trunc8 (2 + data.length) :: cmdRegWrite :: addr :: data

/-- `F_RRQ` from its length byte on (R66): `[3][0x81][address][count]`. -/
def bodyRRQ (addr count : Byte) : List Byte := [3, cmdRegRead, addr, count]

/-- `F_VW` from its length byte on (R68): `[3 + 2*wordCount][CMD_VAR_WRITE][addressHigh][addressLow][data]`. -/
def bodyVW (addr : Word) (data : List (Byte × Byte)) : List Byte :=
  trunc8 (3 + 2 * data.length) :: Config.cmdVarWrite :: highByte addr :: lowByte addr :: pairBytes data

/-- `F_VRQ` from its length byte on (R69): `[4][CMD_VAR_READ][addressHigh][addressLow][count]`. -/
def bodyVRQ (addr : Word) (count : Byte) : List Byte :=
  [4, Config.cmdVarRead, highByte addr, lowByte addr, count]

/-- The RTC set frame from its length byte on (R72): `[0x0A][0x80][RTC_COMMIT_ADDR][0x5A][DT7]`. -/
def bodyRtcSet (time : DT7) : List Byte :=
  0x0A#8 :: cmdRegWrite :: Config.rtcCommitAddr :: rtcApplyMarker :: dt7Bytes time

/-- `F_RRS`, the whole frame (R67): `[h][l][count + 3][0x81][address][count][data]`. -/
def frameRRS (h l addr : Byte) (data : List Byte) : List Byte :=
  h :: l :: trunc8 (data.length + 3) :: cmdRegRead :: addr :: trunc8 data.length :: data

/-- The layout that `F_VRS` and `F_EV` share (R70, R71): `[h][l][4 + 2n][command][addressHigh][addressLow][n][words]`. -/
def frameWords (h l command : Byte) (addr : Word) (words : List Word) : List Byte :=
  h :: l :: trunc8 (4 + 2 * words.length) :: command :: highByte addr :: lowByte addr :: trunc8 words.length ::
    wordBytes words

end Sys2Proof.Machine
end

