-- ==== Sys2Proof/WellFormed.lean ====
section
/-! DEFINITION. Well-formed instructions: the ones whose every field fits the place the spec's encoding gives it.
The operand bounds beyond which an operation is refused (R174) are NOT here: such an operation is issued and refused. -/

namespace Sys2Proof

/-- A frame's length and count bytes hold its lengths (R64): the only fields of an instruction that could exceed
their byte. Every other operand has exactly the width of its field. -/
def Instr.wellFormed : Instr → Bool
  | .encodeBCD _ => true
  | .decodeBCD _ => true
  | .packWord _ _ => true
  | .unpackWord _ => true
  | .dateTimeFull _ _ _ _ _ _ _ => true
  | .dateTimeDateOnly _ _ _ => true
  | .setYear _ _ => true
  | .setYearOffset _ _ => true
  | .setMonth _ _ => true
  | .setDay _ _ => true
  | .setWeek _ _ => true
  | .setHour _ _ => true
  | .setMinute _ _ => true
  | .setSecond _ _ => true
  | .toBCD _ => true
  | .fromBCD _ => true
  | .getYear _ => true
  | .getMonth _ => true
  | .getDay _ => true
  | .getWeek _ => true
  | .getHour _ => true
  | .getMinute _ => true
  | .getSecond _ => true
  | .sendFrameHeader _ _ => true
  | .sendByte _ => true
  | .sendWord _ => true
  | .sendBuffer _ => true
  | .readByteWithTimeout => true
  | .drainInput => true
  | .readExpectedFrameReg _ _ _ => true
  | .readExpectedFrameVar _ _ _ => true
  | .writeRegister _ _ => true
  | .writeRegisterByte _ _ => true
  | .writeRegisterWord _ _ => true
  | .readRegister _ _ => true
  | .readRegisterByte _ => true
  | .readRegisterWord _ => true
  | .writeVariable _ _ => true
  | .writeVariableWord _ _ => true
  | .readVariable _ _ => true
  | .readVariableWord _ => true
  | .getRTC => true
  | .setRTC _ => true
  | .pollEvent _ => true
  | .construct _ _ _ => true
  | .setTimeout _ => true
  | .fRW _ data => data.length ≤ 253
  | .fRRQ _ _ => true
  | .fRRS _ _ _ data => data.length ≤ 252
  | .fVW _ data => data.length ≤ 126
  | .fVRQ _ _ => true
  | .fVRS _ _ _ words => words.length ≤ 125
  | .fEV _ _ _ _ words => words.length ≤ 125
  | .fRWRtcSet _ => true
  | .bcd8 _ _ => true
  | .w16 _ _ => true
  | .dt7 _ => true

/-- The instruction is well formed. -/
abbrev Instr.WellFormed (i : Instr) : Prop := i.wellFormed = true

/-- A map is a numbering of the operations (R7, R81): it lists each of them exactly once, no two with one code, so that a code
selects at most one operation. -/
abbrev OpselMap.Valid (m : OpselMap) : Prop :=
  (m.map Prod.fst).Nodup ∧ (m.map Prod.snd).Nodup ∧ ∀ op : Operation, op ∈ m.map Prod.fst

/-- "A `dt` is *valid* when every field is in its range" (R30). No operation requires it of an operand: the rules of
spec/41_datetime.md give every record of seven bytes its result. -/
abbrev DateTime.Valid (d : DateTime) : Prop :=
  d.year.toNat ≤ 99 ∧ (1 ≤ d.month.toNat ∧ d.month.toNat ≤ 12) ∧ (1 ≤ d.day.toNat ∧ d.day.toNat ≤ 31) ∧
    d.hour.toNat ≤ 23 ∧ d.minute.toNat ≤ 59 ∧ d.second.toNat ≤ 59

end Sys2Proof
end

