-- ==== Sys2Proof/Decode.lean ====
section
/-! DEFINITION. From packets to instructions and back (spec/30_encoding.md rules R60 to R73, R81, R82). The OPSEL codes are
those of a map `m`, the open parameter `OPSEL_MAP` (R7); how operands follow a code is read from the "encoding" columns of spec/95_test_vectors.md (log entry 2). -/

namespace Sys2Proof

open Machine (packWord highByte lowByte trunc8 cmdRegWrite cmdRegRead rtcApplyMarker)

/-- An operation without operands. -/
def take0 (i : Instr) : List Byte → Except DecodeError Instr
  | [] => .ok i
  | _ => .error .operandCount

/-- One `u8` operand. -/
def take1 (f : Byte → Instr) : List Byte → Except DecodeError Instr
  | [a] => .ok (f a)
  | _ => .error .operandCount

/-- Two `u8` operands. -/
def take2 (f : Byte → Byte → Instr) : List Byte → Except DecodeError Instr
  | [a, b] => .ok (f a b)
  | _ => .error .operandCount

/-- Three `u8` operands. -/
def take3 (f : Byte → Byte → Byte → Instr) : List Byte → Except DecodeError Instr
  | [a, b, c] => .ok (f a b c)
  | _ => .error .operandCount

/-- One `u16` operand, high byte first. -/
def takeW (f : Word → Instr) : List Byte → Except DecodeError Instr
  | [h, l] => .ok (f (packWord h l))
  | _ => .error .operandCount

/-- A `u8` and a `u16`. -/
def takeBW (f : Byte → Word → Instr) : List Byte → Except DecodeError Instr
  | [a, h, l] => .ok (f a (packWord h l))
  | _ => .error .operandCount

/-- A `u16` and a `u8`. -/
def takeWB (f : Word → Byte → Instr) : List Byte → Except DecodeError Instr
  | [h, l, b] => .ok (f (packWord h l) b)
  | _ => .error .operandCount

/-- A `u8`, a `u16` and a `u8`. -/
def takeBWB (f : Byte → Word → Byte → Instr) : List Byte → Except DecodeError Instr
  | [a, h, l, b] => .ok (f a (packWord h l) b)
  | _ => .error .operandCount

/-- Two `u16` operands. -/
def takeWW (f : Word → Word → Instr) : List Byte → Except DecodeError Instr
  | [h, l, h', l'] => .ok (f (packWord h l) (packWord h' l'))
  | _ => .error .operandCount

/-- A full year, a month and a day (R111). -/
def takeDate (f : Word → Byte → Byte → Instr) : List Byte → Except DecodeError Instr
  | [h, l, m, d] => .ok (f (packWord h l) m d)
  | _ => .error .operandCount

/-- A full year and six fields (R110). -/
def takeDateTime (f : Word → Byte → Byte → Byte → Byte → Byte → Byte → Instr) : List Byte → Except DecodeError Instr
  | [h, l, mo, d, w, ho, mi, s] => .ok (f (packWord h l) mo d w ho mi s)
  | _ => .error .operandCount

/-- A `dt` as its seven fields (R82, table rows `setMonth`, `toBCD`, ...). -/
def takeDt (f : DateTime → Instr) : List Byte → Except DecodeError Instr
  | [y, mo, d, w, ho, mi, s] => .ok (f ⟨y, mo, d, w, ho, mi, s⟩)
  | _ => .error .operandCount

/-- A `dt` and a `u8`. -/
def takeDtB (f : DateTime → Byte → Instr) : List Byte → Except DecodeError Instr
  | [y, mo, d, w, ho, mi, s, v] => .ok (f ⟨y, mo, d, w, ho, mi, s⟩ v)
  | _ => .error .operandCount

/-- A `dt` and a `u16`. -/
def takeDtW (f : DateTime → Word → Instr) : List Byte → Except DecodeError Instr
  | [y, mo, d, w, ho, mi, s, h, l] => .ok (f ⟨y, mo, d, w, ho, mi, s⟩ (packWord h l))
  | _ => .error .operandCount

/-- Exactly seven bytes: "Operand is exactly 7 bytes" (R113). -/
def takeDT7 (f : DT7 → Instr) : List Byte → Except DecodeError Instr
  | [y, mo, d, w, ho, mi, s] => .ok (f ⟨y, mo, d, w, ho, mi, s⟩)
  | _ => .error .operandCount

/-- Byte pairs, or nothing for an odd number of bytes (R127). -/
def pairsOf : List Byte → Option (List (Byte × Byte))
  | [] => some []
  | [_] => none
  | a :: b :: rest => (pairsOf rest).map ((a, b) :: ·)

/-- Big-endian words, or nothing for an odd number of bytes (R61). -/
def wordsOf (data : List Byte) : Option (List Word) :=
  (pairsOf data).map (List.map fun p => packWord p.1 p.2)

/-- A `u8` address and the rest of the packet as data (R124). -/
def takeBData (f : Byte → List Byte → Instr) : List Byte → Except DecodeError Instr
  | a :: data => .ok (f a data)
  | [] => .error .operandCount

/-- A `u16` address and the rest of the packet as byte pairs (R127). -/
def takeWPairs (f : Word → List (Byte × Byte) → Instr) : List Byte → Except DecodeError Instr
  | h :: l :: data =>
    match pairsOf data with
    | some ps => .ok (f (packWord h l) ps)
    | none => .error .oddData
  | _ => .error .operandCount

/-- The channel operand of `construct`, absent (0) or present (1), added to `base`. -/
def takeChannel (base : Byte) (f : Bool → Instr) (c : Byte) : Except DecodeError Instr :=
  if c = base then .ok (f false) else if c = base + 1 then .ok (f true) else .error .channelCode

/-- The header bytes that are given, then the channel (R160; log entry 2). One header byte alone is the high one, and the low
one if 2 is added to the channel operand. -/
def takeConstruct : List Byte → Except DecodeError Instr
  | [c] => takeChannel 0 (.construct none none) c
  | [x, c] =>
    if c = 0 ∨ c = 1 then takeChannel 0 (.construct (some x) none) c else takeChannel 2 (.construct none (some x)) c
  | [h, l, c] => takeChannel 0 (.construct (some h) (some l)) c
  | _ => .error .operandCount

/-- The value of big-endian bytes, of any number. -/
def natOfBytes (bs : List Byte) : Nat := bs.foldl (fun n b => n * 256 + b.toNat) 0

/-- The big-endian bytes of a natural number, most significant first, at most `fuel` of them. -/
def bytesOfNat : Nat → Nat → List Byte
  | 0, _ => []
  | fuel + 1, n => if n = 0 then [] else bytesOfNat fuel (n / 256) ++ [trunc8 n]

/-- The operation that an OPSEL code selects, if any (R81). -/
def OpselMap.select (m : OpselMap) (code : Byte) : Option Operation :=
  match m with
  | [] => none
  | (op, c) :: rest => if c = code then some op else OpselMap.select rest code

/-- The OPSEL code of an operation (R81). -/
def OpselMap.code (m : OpselMap) (op : Operation) : Byte :=
  match m with
  | [] => 0
  | (o, c) :: rest => if o = op then c else OpselMap.code rest op

/-- An operation with its operands (R82). -/
def decodeOperands (op : Operation) (ops : List Byte) : Except DecodeError Instr :=
  match op with
  | .encodeBCD => take1 .encodeBCD ops
  | .decodeBCD => take1 .decodeBCD ops
  | .packWord => take2 .packWord ops
  | .unpackWord => takeW .unpackWord ops
  | .dateTimeFull => takeDateTime .dateTimeFull ops
  | .dateTimeDateOnly => takeDate .dateTimeDateOnly ops
  | .setYear => takeDtW .setYear ops
  | .setYearOffset => takeDtB .setYearOffset ops
  | .setMonth => takeDtB .setMonth ops
  | .setDay => takeDtB .setDay ops
  | .setWeek => takeDtB .setWeek ops
  | .setHour => takeDtB .setHour ops
  | .setMinute => takeDtB .setMinute ops
  | .setSecond => takeDtB .setSecond ops
  | .toBCD => takeDt .toBCD ops
  | .fromBCD => takeDT7 .fromBCD ops
  | .getYear => takeDt .getYear ops
  | .getMonth => takeDt .getMonth ops
  | .getDay => takeDt .getDay ops
  | .getWeek => takeDt .getWeek ops
  | .getHour => takeDt .getHour ops
  | .getMinute => takeDt .getMinute ops
  | .getSecond => takeDt .getSecond ops
  | .sendFrameHeader => take2 .sendFrameHeader ops
  | .sendByte => take1 .sendByte ops
  | .sendWord => takeW .sendWord ops
  | .sendBuffer => .ok (.sendBuffer ops)
  | .readByteWithTimeout => take0 .readByteWithTimeout ops
  | .drainInput => take0 .drainInput ops
  | .readExpectedFrameReg => take3 .readExpectedFrameReg ops
  | .readExpectedFrameVar => takeBWB .readExpectedFrameVar ops
  | .writeRegister => takeBData .writeRegister ops
  | .writeRegisterByte => take2 .writeRegisterByte ops
  | .writeRegisterWord => takeBW .writeRegisterWord ops
  | .readRegister => take2 .readRegister ops
  | .readRegisterByte => take1 .readRegisterByte ops
  | .readRegisterWord => take1 .readRegisterWord ops
  | .writeVariable => takeWPairs .writeVariable ops
  | .writeVariableWord => takeWW .writeVariableWord ops
  | .readVariable => takeWB .readVariable ops
  | .readVariableWord => takeW .readVariableWord ops
  | .getRTC => take0 .getRTC ops
  | .setRTC => takeDt .setRTC ops
  | .pollEvent => take1 .pollEvent ops
  | .construct => takeConstruct ops
  | .setTimeout => .ok (.setTimeout (natOfBytes ops))

/-- A register write frame from its length byte on (R65). -/
def decodeRW : List Byte → Except DecodeError Instr
  | n :: c :: a :: data =>
    if c ≠ cmdRegWrite then .error .wrongCommand
    else if n.toNat ≠ 2 + data.length then .error .wrongLength
    else .ok (.fRW a data)
  | _ => .error .operandCount

/-- A register read request from its length byte on (R66). -/
def decodeRRQ : List Byte → Except DecodeError Instr
  | [n, c, a, k] =>
    if c ≠ cmdRegRead then .error .wrongCommand else if n.toNat ≠ 3 then .error .wrongLength else .ok (.fRRQ a k)
  | _ => .error .operandCount

/-- A whole register read response (R67). -/
def decodeRRS : List Byte → Except DecodeError Instr
  | h :: l :: n :: c :: a :: k :: data =>
    if c ≠ cmdRegRead then .error .wrongCommand
    else if k.toNat ≠ data.length ∨ n.toNat ≠ data.length + 3 then .error .wrongLength
    else .ok (.fRRS h l a data)
  | _ => .error .operandCount

/-- A variable write frame from its length byte on (R68). -/
def decodeVW : List Byte → Except DecodeError Instr
  | n :: c :: ah :: al :: data =>
    if c ≠ Config.cmdVarWrite then .error .wrongCommand
    else match pairsOf data with
      | none => .error .oddData
      | some ps => if n.toNat ≠ 3 + 2 * ps.length then .error .wrongLength else .ok (.fVW (packWord ah al) ps)
  | _ => .error .operandCount

/-- A variable read request from its length byte on (R69). -/
def decodeVRQ : List Byte → Except DecodeError Instr
  | [n, c, ah, al, k] =>
    if c ≠ Config.cmdVarRead then .error .wrongCommand
    else if n.toNat ≠ 4 then .error .wrongLength
    else .ok (.fVRQ (packWord ah al) k)
  | _ => .error .operandCount

/-- The layout `F_VRS` and `F_EV` share (R70, R71), given what to make of its fields. -/
def decodeWords (f : Byte → Byte → Byte → Word → List Word → Except DecodeError Instr) :
    List Byte → Except DecodeError Instr
  | h :: l :: n :: c :: ah :: al :: k :: data =>
    match wordsOf data with
    | none => .error .oddData
    | some ws =>
      if k.toNat ≠ ws.length ∨ n.toNat ≠ 4 + 2 * ws.length then .error .wrongLength
      else f h l c (packWord ah al) ws
  | _ => .error .operandCount

/-- A whole variable read response (R70). -/
def decodeVRS : List Byte → Except DecodeError Instr :=
  decodeWords fun h l c a ws => if c ≠ Config.cmdVarRead then .error .wrongCommand else .ok (.fVRS h l a ws)

/-- A whole event frame: any command byte (R71). -/
def decodeEV : List Byte → Except DecodeError Instr :=
  decodeWords fun h l c a ws => .ok (.fEV h l c a ws)

/-- The RTC set frame from its length byte on (R72). -/
def decodeRtcSet : List Byte → Except DecodeError Instr
  | n :: c :: a :: m :: time =>
    if c ≠ cmdRegWrite then .error .wrongCommand
    else if n ≠ 0x0A#8 then .error .wrongLength
    else if a ≠ Config.rtcCommitAddr ∨ m ≠ rtcApplyMarker then .error .wrongFixedByte
    else takeDT7 .fRWRtcSet time
  | _ => .error .operandCount

/-- The instruction of a packet under the numbering `m`, or the reason it is none. Total on any bytes. -/
def decode (m : OpselMap) (p : Packet) : Except DecodeError Instr :=
  match p.format with
  | .opsel =>
    match p.bytes with
    | [] => .error .empty
    | code :: ops =>
      match m.select code with
      | some op => decodeOperands op ops
      | none => .error (.unassignedOpsel code)
  | .fRW => decodeRW p.bytes
  | .fRRQ => decodeRRQ p.bytes
  | .fRRS => decodeRRS p.bytes
  | .fVW => decodeVW p.bytes
  | .fVRQ => decodeVRQ p.bytes
  | .fVRS => decodeVRS p.bytes
  | .fEV => decodeEV p.bytes
  | .fRWRtcSet => decodeRtcSet p.bytes
  | .bcd8 => take1 (fun b => .bcd8 (Machine.highNibble b) (Machine.lowNibble b)) p.bytes
  | .w16 => take2 .w16 p.bytes
  | .dt7 => takeDT7 .dt7 p.bytes

/-- An operation's OPSEL code followed by operand bytes. -/
def opselPacket (m : OpselMap) (op : Operation) (ops : List Byte) : Packet := ⟨.opsel, m.code op :: ops⟩

/-- A `u16` operand, high byte first. -/
def wordOperand (w : Word) : List Byte := [highByte w, lowByte w]

/-- The operands of `construct`: the header bytes that are given, then the channel (log entry 2). -/
def constructOperands (h l : Option Byte) (channel : Bool) : List Byte :=
  let c : Byte := if channel then 1 else 0
  match h, l with
  | none, none => [c]
  | some h, none => [h, c]
  | none, some l => [l, 2 + c]
  | some h, some l => [h, l, c]

/-- The packet of an instruction (R81 for operations, under the numbering `m`; R60 to R73 for formats). -/
def encode (m : OpselMap) (i : Instr) : Packet :=
  match i with
  | .encodeBCD v => opselPacket m .encodeBCD [v]
  | .decodeBCD b => opselPacket m .decodeBCD [b]
  | .packWord h l => opselPacket m .packWord [h, l]
  | .unpackWord w => opselPacket m .unpackWord (wordOperand w)
  | .dateTimeFull y mo d w ho mi s => opselPacket m .dateTimeFull (wordOperand y ++ [mo, d, w, ho, mi, s])
  | .dateTimeDateOnly y mo d => opselPacket m .dateTimeDateOnly (wordOperand y ++ [mo, d])
  | .setYear dt y => opselPacket m .setYear (Machine.dateTimeBytes dt ++ wordOperand y)
  | .setYearOffset dt v => opselPacket m .setYearOffset (Machine.dateTimeBytes dt ++ [v])
  | .setMonth dt v => opselPacket m .setMonth (Machine.dateTimeBytes dt ++ [v])
  | .setDay dt v => opselPacket m .setDay (Machine.dateTimeBytes dt ++ [v])
  | .setWeek dt v => opselPacket m .setWeek (Machine.dateTimeBytes dt ++ [v])
  | .setHour dt v => opselPacket m .setHour (Machine.dateTimeBytes dt ++ [v])
  | .setMinute dt v => opselPacket m .setMinute (Machine.dateTimeBytes dt ++ [v])
  | .setSecond dt v => opselPacket m .setSecond (Machine.dateTimeBytes dt ++ [v])
  | .toBCD dt => opselPacket m .toBCD (Machine.dateTimeBytes dt)
  | .fromBCD b => opselPacket m .fromBCD (Machine.dt7Bytes b)
  | .getYear dt => opselPacket m .getYear (Machine.dateTimeBytes dt)
  | .getMonth dt => opselPacket m .getMonth (Machine.dateTimeBytes dt)
  | .getDay dt => opselPacket m .getDay (Machine.dateTimeBytes dt)
  | .getWeek dt => opselPacket m .getWeek (Machine.dateTimeBytes dt)
  | .getHour dt => opselPacket m .getHour (Machine.dateTimeBytes dt)
  | .getMinute dt => opselPacket m .getMinute (Machine.dateTimeBytes dt)
  | .getSecond dt => opselPacket m .getSecond (Machine.dateTimeBytes dt)
  | .sendFrameHeader c l => opselPacket m .sendFrameHeader [c, l]
  | .sendByte b => opselPacket m .sendByte [b]
  | .sendWord w => opselPacket m .sendWord (wordOperand w)
  | .sendBuffer bs => opselPacket m .sendBuffer bs
  | .readByteWithTimeout => opselPacket m .readByteWithTimeout []
  | .drainInput => opselPacket m .drainInput []
  | .readExpectedFrameReg c a n => opselPacket m .readExpectedFrameReg [c, a, n]
  | .readExpectedFrameVar c a n => opselPacket m .readExpectedFrameVar (c :: wordOperand a ++ [n])
  | .writeRegister a data => opselPacket m .writeRegister (a :: data)
  | .writeRegisterByte a b => opselPacket m .writeRegisterByte [a, b]
  | .writeRegisterWord a w => opselPacket m .writeRegisterWord (a :: wordOperand w)
  | .readRegister a n => opselPacket m .readRegister [a, n]
  | .readRegisterByte a => opselPacket m .readRegisterByte [a]
  | .readRegisterWord a => opselPacket m .readRegisterWord [a]
  | .writeVariable a data => opselPacket m .writeVariable (wordOperand a ++ Machine.pairBytes data)
  | .writeVariableWord a w => opselPacket m .writeVariableWord (wordOperand a ++ wordOperand w)
  | .readVariable a n => opselPacket m .readVariable (wordOperand a ++ [n])
  | .readVariableWord a => opselPacket m .readVariableWord (wordOperand a)
  | .getRTC => opselPacket m .getRTC []
  | .setRTC dt => opselPacket m .setRTC (Machine.dateTimeBytes dt)
  | .pollEvent n => opselPacket m .pollEvent [n]
  | .construct h l c => opselPacket m .construct (constructOperands h l c)
  | .setTimeout ms => opselPacket m .setTimeout (bytesOfNat (Nat.log2 ms + 1) ms)
  | .fRW a data => ⟨.fRW, Machine.bodyRW a data⟩
  | .fRRQ a n => ⟨.fRRQ, Machine.bodyRRQ a n⟩
  | .fRRS h l a data => ⟨.fRRS, Machine.frameRRS h l a data⟩
  | .fVW a data => ⟨.fVW, Machine.bodyVW a data⟩
  | .fVRQ a n => ⟨.fVRQ, Machine.bodyVRQ a n⟩
  | .fVRS h l a ws => ⟨.fVRS, Machine.frameWords h l Config.cmdVarRead a ws⟩
  | .fEV h l c a ws => ⟨.fEV, Machine.frameWords h l c a ws⟩
  | .fRWRtcSet t => ⟨.fRWRtcSet, Machine.bodyRtcSet t⟩
  | .bcd8 t o => ⟨.bcd8, [Machine.packNibbles t o]⟩
  | .w16 h l => ⟨.w16, [h, l]⟩
  | .dt7 b => ⟨.dt7, Machine.dt7Bytes b⟩

/-- How many operand bytes an operation has (R82), the data of a buffer and the operands with a default (R160) left out. -/
def operandBytes : Operation → Nat
  | .sendBuffer | .readByteWithTimeout | .drainInput | .getRTC => 0
  | .encodeBCD | .decodeBCD | .sendByte | .writeRegister | .readRegisterByte | .readRegisterWord | .pollEvent
  | .construct => 1
  | .packWord | .unpackWord | .sendFrameHeader | .sendWord | .writeRegisterByte | .readRegister
  | .writeVariable | .readVariableWord | .setTimeout => 2
  | .readExpectedFrameReg | .writeRegisterWord | .readVariable => 3
  | .dateTimeDateOnly | .readExpectedFrameVar | .writeVariableWord => 4
  | .toBCD | .fromBCD | .getYear | .getMonth | .getDay | .getWeek | .getHour | .getMinute | .getSecond
  | .setRTC => 7
  | .dateTimeFull | .setYearOffset | .setMonth | .setDay | .setWeek | .setHour | .setMinute | .setSecond => 8
  | .setYear => 9

/-- The `count` lowest bytes of a number, the least significant first. -/
def bytesOfBits : Nat → Nat → List Byte
  | 0, _ => []
  | count + 1, w => trunc8 w :: bytesOfBits count (w / 256)

/-- The packet of a table word of `nbits` bits: its bytes in order, its missing operand bytes zero, a buffer empty, an operand
with a default left out. The table's numbering is R81's. -/
def tablePacket (nbits w : Nat) : Packet :=
  match bytesOfBits ((nbits + 7) / 8) w with
  | [] => ⟨.opsel, []⟩
  | code :: ops =>
    let count := match Machine.opselDefault.select code with
      | some op => operandBytes op
      | none => 0
    ⟨.opsel, code :: (ops ++ List.replicate (count - ops.length) 0)⟩

/-- What the decoder reads from a table word, or nothing where it refuses. -/
def decodeTableWord (nbits w : Nat) : Option Instr :=
  match decode Machine.opselDefault (tablePacket nbits w) with
  | .ok i => some i
  | .error _ => none

end Sys2Proof
end

