-- ==== Sys2Proof/Machine/State.lean ====
section
/-! DEFINITION. The machine's state (spec/10_state.md), the reasons a step can stop, and the state after reset.
The block has no registers beyond four session registers, no program counter, no flags and no memory (R25 to R27, R40);
the environment it acts on is held beside them (R28), with the host's side of the interface. -/

namespace Sys2Proof.Machine

/-- The validated fields of a response, with the field codes of R170. -/
inductive Field where
  | headerHigh | headerLow | length | command
  /-- Register mode; code 5. -/
  | address
  /-- Variable mode; code 5 as well. -/
  | addressHigh
  | addressLow | count
deriving DecidableEq, Repr

/-- The causes of R170: "ghost output only", not visible on the host interface and read by no operation. -/
inductive Cause where
  | none
  | transportNotReady
  | mismatch (field : Field)
  | timeoutWithinRead
  | noData
  | notHeader
  | lengthMismatch
deriving DecidableEq, Repr

/-- `DeviceEvent`, `ev` of R31. `data` holds the words stored, "only the first `maxWords`" of those declared. -/
structure DeviceEvent where
  command : Byte
  address : Word
  dataLength : Byte
  data : List Word
deriving DecidableEq, Repr

/-- What the host receives from an operation: the outcome of R11 as R170's column "visible to the host as" shows it. -/
inductive Reply where
  /-- No operation has answered yet. -/
  | idle
  /-- `ok` with no output: the success signal of a send operation. -/
  | success
  /-- The end of an operation without a result: `drainInput`, `construct`, `setTimeout` (R141, R160, R161). -/
  | nothing
  | byte (b : Byte)
  | word (w : Word)
  /-- The pair of `unpackWord` (R93). -/
  | bytePair (high low : Byte)
  | bytes (bs : List Byte)
  | words (ws : List Word)
  | dateTime (d : DateTime)
  /-- `some ev` of `pollEvent` (R150). -/
  | event (ev : DeviceEvent)
  /-- `none` of `pollEvent` (R150), whatever its cause. -/
  | noEvent
  /-- Failure, without its kind or field (R27, R173); no output (D19). -/
  | failed
deriving DecidableEq, Repr

/-- One turn of the environment (R6: the transport and the clock): the time that passes, then the bytes that reach the
receive queue. `endless` says that the transport goes on delivering without pause, so that a drain that meets this
turn never observes an empty queue (R141, U9). Log entry 8. -/
structure Arrival where
  elapse : Nat
  bytes : List Byte
  endless : Bool
deriving DecidableEq, Repr

/-- Everything the spec gives the machine, and the model's own fields (marked). -/
structure State where
  /-- `HDR_H` (R21). -/
  hdrH : Byte
  /-- `HDR_L` (R22). -/
  hdrL : Byte
  /-- `TIMEOUT_MS` (R23), a natural number of milliseconds ("a model may use an unbounded natural", R7). -/
  timeoutMs : Nat
  /-- `ATTACHED` (R24). -/
  attached : Bool
  /-- The model's own: whether `construct` has run, before which no operation on the channel has a meaning (U23, R192). -/
  constructed : Bool
  /-- `RXQ` (R28), the first byte first. -/
  rxq : List Byte
  /-- `TXS` (R28), every byte written since construction, the first byte first. -/
  txs : List Byte
  /-- `CLOCK` (R28), in milliseconds. -/
  clock : Nat
  /-- The model's own: what the transport and the clock do next (R6, R153), the next turn first. -/
  link : List Arrival
  /-- `OPSEL_MAP` (R7), the OPEN numbering of the operations: an argument of the machine, held here as data and written by no
  instruction. Every claim is made for every map (log entry 2). -/
  opsel : OpselMap
  /-- The model's own: the operations the host has issued and the block has not yet run (R6, R48), the next first. -/
  requests : List Packet
  /-- The host's side of the interface: what the last operation returned (R11, R27). No operation reads it. -/
  reply : Reply
  /-- The ghost cause of the last operation (R170). No operation reads it. -/
  cause : Cause
  /-- The model's own: how many byte reads have been made on an attached channel; the argument of the free choice of
  R140 (d), and `k` of R152. -/
  rbtCalls : Nat
  /-- The model's own: how many of them timed out, `z` of R152. -/
  rbtTimeouts : Nat
deriving DecidableEq, Repr

/-- Why the machine stops with a fault. The spec names one stuck state and no trap ("No behaviour of this block is a
`fault` in the sense of a trap", 93 section 1). -/
inductive Fault where
  /-- Raised by a drain of the receive queue whose transport "delivers bytes without pause faster than the loop removes
  them": "the loop does not end" (R141, R203, U9). Safe: nothing is proved of a run that never returns. -/
  | drainNeverEnds
deriving DecidableEq, Repr

/-- Why an instruction has no meaning. -/
inductive Refusal where
  /-- Raised by `exec` for an instruction that is not modelled yet; no arm raises it. Safe. -/
  | notModelled (mnemonic : String)
  /-- Raised by `step` for a packet that is no instruction (R81, U11; log entry 2). Safe. -/
  | undecodable (reason : DecodeError)
  /-- Raised by an operation whose operands "would make a frame length byte exceed 255" (R64, R174, U10). Safe. -/
  | lengthOverflow
  /-- Raised by every operation on the session or the channel before `construct` (U23). Safe. -/
  | notConstructed
deriving DecidableEq, Repr

/-- What a protocol operation does before the host sees it: it ends `ok` with outputs, or fails with a cause, in a
state; or it is refused, or never ends (R11). -/
inductive Attempt (α : Type) where
  | ok (output : α) (s : State)
  | fail (cause : Cause) (s : State)
  | refuse (reason : Refusal)
  | stuck (reason : Fault)
deriving Repr

/-- What one `RBT()` call gives (R140): the byte it returns, whether it is the 0 of a timeout, and the state it leaves. -/
structure ByteRead where
  byte : Byte
  timedOut : Bool
  state : State
deriving DecidableEq, Repr

/-- The machine right after reset, which "is construction" (R33, R190, R191): the session registers at their default
construction values. The spec gives no value to `ATTACHED`, `RXQ` and `CLOCK`; log entry 1 names the ones taken here, and log
entry 2 the map. -/
def State.reset : State where
  hdrH := hdrHInit
  hdrL := hdrLInit
  timeoutMs := timeoutInit
  attached := true
  constructed := true
  rxq := []
  txs := []
  clock := 0
  link := []
  opsel := opselDefault
  requests := []
  reply := .idle
  cause := .none
  rbtCalls := 0
  rbtTimeouts := 0

end Sys2Proof.Machine
end

