-- ==== Sys2Proof/Machine/Ops.lean ====
section
/-! DEFINITION. The operations every meaning is made of: the environment's turn, the stream and time primitives of R10,
the byte read with timeout (R140), the drain (R141), and how an operation ends: with its outputs, or by taking a
failure, which is the block's one kind of exception (R170 to R179). -/

namespace Sys2Proof.Machine

/-- What a meaning answers. -/
abbrev Result := Host.Outcome State Fault Refusal

/-! ### The end of an operation -/

/-- The host receives `r`; `c` is the ghost cause. -/
def State.answer (s : State) (r : Reply) (c : Cause) : State := { s with reply := r, cause := c }

/-- An operation that ends `ok` (R11). -/
def succeed (r : Reply) (s : State) : Result := .next (s.answer r .none)

/-- TAKING A FAILURE (R177, "the analogue of trap entry"): "No control is transferred and nothing is saved"; the session
registers, `TXS` and `RXQ` stay as the operation left them, no output is valid, and the host is handed `r`: the failure
signal, or the value a wrapper collapses it into (R179). There is no return from a failure (R178): the next operation
simply runs. -/
def takeFailure (r : Reply) (c : Cause) (s : State) : Result := .next (s.answer r c)

/-- How the host sees an attempt: its outputs on `ok`, `negative` on a failure of any kind. -/
def deliver {α : Type} (negative : Reply) (shown : α → Reply) : Attempt α → Result
  | .ok a s => succeed (shown a) s
  | .fail c s => takeFailure negative c s
  | .refuse r => .refused r
  | .stuck f => .fault f

/-- Operations on the session and the channel: refused before `construct` (U23). -/
def whenConstructed (s : State) (r : Result) : Result :=
  if s.constructed then r else .refused .notConstructed

/-- One operation after another: "an operation ends at its first failure" (R178). -/
def Attempt.andThen {α β : Type} (x : Attempt α) (k : α → State → Attempt β) : Attempt β :=
  match x with
  | .ok a s => k a s
  | .fail c s => .fail c s
  | .refuse r => .refuse r
  | .stuck f => .stuck f

/-! ### The environment and the streams -/

/-- The environment's next turn (R6, R28): time passes, then bytes are appended to `RXQ` "at the tail". -/
def State.sync (s : State) : State :=
  match s.link with
  | [] => s
  | a :: rest => { s with clock := s.clock + a.elapse, rxq := s.rxq ++ a.bytes, link := rest }

/-- `TXBUF(bs)` of R10: the bytes are appended to `TXS` in order. -/
def State.transmit (s : State) (bs : List Byte) : State := { s with txs := s.txs ++ bs }

/-- The raw writers of R120 to R123: not ready without a channel, else the bytes go out. -/
def sendRaw (bs : List Byte) (s : State) : Attempt Unit :=
  if s.attached then .ok () (s.transmit bs) else .fail .transportNotReady s

/-! ### The byte read with timeout -/

/-- A call of `RBT()` that returns a byte. -/
def gotByte (b : Byte) (s : State) : ByteRead := ⟨b, false, { s with rbtCalls := s.rbtCalls + 1 }⟩

/-- A call of `RBT()` that returns the 0 of a timeout: "none removed" (R140, R172). -/
def timedOut (s : State) : ByteRead :=
  ⟨0, true, { s with rbtCalls := s.rbtCalls + 1, rbtTimeouts := s.rbtTimeouts + 1 }⟩

/-- The wait of one call that found `RXQ` empty at the time `s.clock`: `e` milliseconds of it have passed, `link` is what
the environment does next. A byte before `T` is returned, no byte up to `T` is a timeout at `T`, a byte at exactly `T`
is either (R140 (b), (c), (d)). A turn that reaches past `T` is cut there, its rest still to come.

DESIGN CHOICE (log entry 8, unsafe): the rest of a cut turn, at least 1 ms, passes whole in the next `State.sync`, before the next
call starts. The spec leaves the time between an expired wait and the next call open, 0 included (U20, D26); here it is not 0 after
a cut, so two expired waits with no time between them, and then an arrival, do not occur. -/
def waitByte (T e : Nat) (s : State) : List Arrival → ByteRead
  | [] => timedOut { s with clock := s.clock + T, link := [] }
  | a :: rest =>
    if T < e + a.elapse then
      timedOut { s with clock := s.clock + T, link := { a with elapse := e + a.elapse - T } :: rest }
    else
      match a.bytes with
      | [] => waitByte T (e + a.elapse) s rest
      | b :: later =>
        if e + a.elapse < T ∨ Config.rbtBoundary s.rbtCalls = true then
          gotByte b { s with clock := s.clock + (e + a.elapse), rxq := later, link := rest }
        else timedOut { s with clock := s.clock + T, rxq := b :: later, link := rest }

/-- The call itself, on an attached channel: a byte already there is returned at once (R140 (a)), unless the timeout is
0, where "either outcome is admissible" (R140 (d)). -/
def receiveByte (s : State) : ByteRead :=
  match s.rxq with
  | b :: later =>
    if 1 ≤ s.timeoutMs ∨ Config.rbtBoundary s.rbtCalls = true then gotByte b { s with rxq := later } else timedOut s
  | [] => waitByte s.timeoutMs 0 s s.link

/-- `RBT()` (R140). Without a channel it returns 0 at once. -/
def rbt (s : State) : ByteRead := if s.attached then receiveByte s.sync else ⟨0, false, s⟩

/-- `n` calls of `RBT()`, the bytes in the order read. -/
def readBytes : Nat → State → List Byte × State
  | 0, s => ([], s)
  | n + 1, s =>
    let r := rbt s
    let rest := readBytes n r.state
    (r.byte :: rest.1, rest.2)

/-- `n` words, "high byte first" (R143, R150). -/
def readWords : Nat → State → List Word × State
  | 0, s => ([], s)
  | n + 1, s =>
    let h := rbt s
    let l := rbt h.state
    let rest := readWords n l.state
    (packWord h.byte l.byte :: rest.1, rest.2)

/-- The short-circuit validation of R142, R143: one `RBT()` per field, compared "on `nat`" with its expected value; the
first field that differs is the one reported, and "no later byte is read after a mismatch". -/
def validate : List (Field × Nat) → State → Attempt Unit
  | [], s => .ok () s
  | (field, expected) :: rest, s =>
    let r := rbt s
    if r.byte.toNat ≠ expected then .fail (.mismatch field) r.state else validate rest r.state

/-! ### The drain -/

/-- The environment's next turn lets a drain end (R141, U9). -/
def State.drainEnds (s : State) : Bool :=
  match s.link with
  | [] => true
  | a :: _ => !a.endless

/-- `drainInput` (R141), "as atomic" (D24): after the environment's turn, "`RXQ` is empty at that instant". Without a
channel there is "nothing to drain". -/
def drainInput (s : State) : Attempt Unit :=
  if s.attached then
    if s.drainEnds then .ok () { s.sync with rxq := [] } else .stuck .drainNeverEnds
  else .ok () s

end Sys2Proof.Machine
end

