-- ==== Sys2Proof/Machine/ByteCodec.lean ====
section
/-! DEFINITION. ByteCodec (spec/40_bytecodec.md): pure, total operations; they read and write no register and touch
neither stream nor clock. The functions themselves stand in Operands.lean. -/

namespace Sys2Proof.Machine

/-- `encodeBCD` (R90). -/
def execEncodeBCD (value : Byte) (s : State) : Result := succeed (.byte (encodeBCD value)) s

/-- `decodeBCD` (R91). -/
def execDecodeBCD (b : Byte) (s : State) : Result := succeed (.byte (decodeBCD b)) s

/-- `packWord` (R92). -/
def execPackWord (high low : Byte) (s : State) : Result := succeed (.word (packWord high low)) s

/-- `unpackWord` (R93). -/
def execUnpackWord (w : Word) (s : State) : Result := succeed (.bytePair (highByte w) (lowByte w)) s

end Sys2Proof.Machine
end

