-- ==== Sys2Proof/Machine/DateTime.lean ====
section
/-! DEFINITION. DateTimeValue (spec/41_datetime.md): the clamping setters, the getters, the constructors and the seven-byte
BCD serialiser. Pure operations from values to values; "out-of-range input is silently saturated, never rejected". -/

namespace Sys2Proof.Machine

/-- `DateTimeValue` (full) (R110). -/
def dateTimeOf (year : Word) (month day week hour minute second : Byte) : DateTime where
  year := clampYear year
  month := clampByte month 1 12
  day := clampByte day 1 31
  week := week
  hour := clampByte hour 0 23
  minute := clampByte minute 0 59
  second := clampByte second 0 59

/-- `DateTimeValue` (date only) (R111): the fields it does not receive at the open defaults (log entry 6). -/
def dateOf (year : Word) (month day : Byte) : DateTime :=
  dateTimeOf year month day Config.dtDefaultWeek (trunc8 Config.dtDefaultHour.val) (trunc8 Config.dtDefaultMinute.val)
    (trunc8 Config.dtDefaultSecond.val)

/-- `toBCD` (R112). -/
def toBCD (d : DateTime) : DT7 where
  year := encodeBCD d.year
  month := encodeBCD d.month
  day := encodeBCD d.day
  week := encodeBCD d.week
  hour := encodeBCD d.hour
  minute := encodeBCD d.minute
  second := encodeBCD d.second

/-- `fromBCD` (R113): each decoded byte clamped as its setter clamps. -/
def fromBCD (b : DT7) : DateTime where
  year := clampByte (decodeBCD b.year) 0 99
  month := clampByte (decodeBCD b.month) 1 12
  day := clampByte (decodeBCD b.day) 1 31
  week := decodeBCD b.week
  hour := clampByte (decodeBCD b.hour) 0 23
  minute := clampByte (decodeBCD b.minute) 0 59
  second := clampByte (decodeBCD b.second) 0 59

/-- `getYear` (R109): the full four-digit year. -/
def fullYear (d : DateTime) : Word := BitVec.ofNat 16 (epoch + d.year.toNat)

/-- `DateTimeValue` (full) (R110). -/
def execDateTimeFull (year : Word) (month day week hour minute second : Byte) (s : State) : Result :=
  succeed (.dateTime (dateTimeOf year month day week hour minute second)) s

/-- `DateTimeValue` (date only) (R111). -/
def execDateTimeDateOnly (year : Word) (month day : Byte) (s : State) : Result :=
  succeed (.dateTime (dateOf year month day)) s

/-- `setYear` (R101). -/
def execSetYear (dt : DateTime) (y : Word) (s : State) : Result :=
  succeed (.dateTime { dt with year := clampYear y }) s

/-- `setYearOffset` (R102). -/
def execSetYearOffset (dt : DateTime) (v : Byte) (s : State) : Result :=
  succeed (.dateTime { dt with year := clampByte v 0 99 }) s

/-- `setMonth` (R103). -/
def execSetMonth (dt : DateTime) (v : Byte) (s : State) : Result :=
  succeed (.dateTime { dt with month := clampByte v 1 12 }) s

/-- `setDay` (R104): "The bound is 31 whatever the month and year". -/
def execSetDay (dt : DateTime) (v : Byte) (s : State) : Result :=
  succeed (.dateTime { dt with day := clampByte v 1 31 }) s

/-- `setWeek` (R105): "no clamp at all". -/
def execSetWeek (dt : DateTime) (v : Byte) (s : State) : Result := succeed (.dateTime { dt with week := v }) s

/-- `setHour` (R106). -/
def execSetHour (dt : DateTime) (v : Byte) (s : State) : Result :=
  succeed (.dateTime { dt with hour := clampByte v 0 23 }) s

/-- `setMinute` (R107). -/
def execSetMinute (dt : DateTime) (v : Byte) (s : State) : Result :=
  succeed (.dateTime { dt with minute := clampByte v 0 59 }) s

/-- `setSecond` (R108). -/
def execSetSecond (dt : DateTime) (v : Byte) (s : State) : Result :=
  succeed (.dateTime { dt with second := clampByte v 0 59 }) s

/-- `toBCD` (R112). -/
def execToBCD (dt : DateTime) (s : State) : Result := succeed (.bytes (dt7Bytes (toBCD dt))) s

/-- `fromBCD` (R113). -/
def execFromBCD (buffer : DT7) (s : State) : Result := succeed (.dateTime (fromBCD buffer)) s

/-- `getYear` (R109). -/
def execGetYear (dt : DateTime) (s : State) : Result := succeed (.word (fullYear dt)) s

/-- `getMonth` (R109). -/
def execGetMonth (dt : DateTime) (s : State) : Result := succeed (.byte dt.month) s

/-- `getDay` (R109). -/
def execGetDay (dt : DateTime) (s : State) : Result := succeed (.byte dt.day) s

/-- `getWeek` (R109). -/
def execGetWeek (dt : DateTime) (s : State) : Result := succeed (.byte dt.week) s

/-- `getHour` (R109). -/
def execGetHour (dt : DateTime) (s : State) : Result := succeed (.byte dt.hour) s

/-- `getMinute` (R109). -/
def execGetMinute (dt : DateTime) (s : State) : Result := succeed (.byte dt.minute) s

/-- `getSecond` (R109). -/
def execGetSecond (dt : DateTime) (s : State) : Result := succeed (.byte dt.second) s

end Sys2Proof.Machine
end

