-- ==== Sys2Proof/Machine/FrameTx.lean ====
section
/-! DEFINITION. The frame formatter (spec/42_frame_tx.md): the primitive writers and the write operations built on them.
"All of them only append to `TXS`"; "Their only failure is `TransportNotReady`". -/

namespace Sys2Proof.Machine

/-- `sendFrameHeader` (R120): "the operand order is (command, length) but the wire order is length first". -/
def sendFrameHeader (command length : Byte) (s : State) : Attempt Unit :=
  sendRaw [s.hdrH, s.hdrL, length, command] s

/-- `sendByte` (R121). -/
def sendByte (b : Byte) (s : State) : Attempt Unit := sendRaw [b] s

/-- `sendWord` (R122): `w[15:8]` first. -/
def sendWord (w : Word) (s : State) : Attempt Unit := sendRaw [highByte w, lowByte w] s

/-- `sendBuffer` (R123). -/
def sendBuffer (bytes : List Byte) (s : State) : Attempt Unit := sendRaw bytes s

/-- `writeRegister` (R124): refused beyond the bound, then header, address and data. -/
def writeRegister (addr : Byte) (data : List Byte) (s : State) : Attempt Unit :=
  if maxRegWriteLen < data.length then .refuse .lengthOverflow
  else
    (sendFrameHeader cmdRegWrite (trunc8 (2 + data.length)) s).andThen fun _ s =>
      (sendByte addr s).andThen fun _ s => sendBuffer data s

/-- `writeVariable` (R127): refused beyond the bound, then header, address and the byte pairs as given. -/
def writeVariable (addr : Word) (data : List (Byte × Byte)) (s : State) : Attempt Unit :=
  if maxVarWriteWords < data.length then .refuse .lengthOverflow
  else
    (sendFrameHeader Config.cmdVarWrite (trunc8 (3 + 2 * data.length)) s).andThen fun _ s =>
      (sendWord addr s).andThen fun _ s => sendBuffer (pairBytes data) s

/-- How a send operation answers: the success signal, or failure. -/
def deliverSend (s : State) (a : Attempt Unit) : Result := whenConstructed s (deliver .failed (fun _ => .success) a)

/-- `sendFrameHeader` (R120). -/
def execSendFrameHeader (command length : Byte) (s : State) : Result := deliverSend s (sendFrameHeader command length s)

/-- `sendByte` (R121). -/
def execSendByte (b : Byte) (s : State) : Result := deliverSend s (sendByte b s)

/-- `sendWord` (R122). -/
def execSendWord (w : Word) (s : State) : Result := deliverSend s (sendWord w s)

/-- `sendBuffer` (R123). -/
def execSendBuffer (bytes : List Byte) (s : State) : Result := deliverSend s (sendBuffer bytes s)

/-- `writeRegister` (R124). -/
def execWriteRegister (addr : Byte) (data : List Byte) (s : State) : Result := deliverSend s (writeRegister addr data s)

/-- `writeRegisterByte` (R125). -/
def execWriteRegisterByte (addr b : Byte) (s : State) : Result := deliverSend s (writeRegister addr [b] s)

/-- `writeRegisterWord` (R126): "word stored big-endian". -/
def execWriteRegisterWord (addr : Byte) (w : Word) (s : State) : Result :=
  deliverSend s (writeRegister addr [highByte w, lowByte w] s)

/-- `writeVariable` (R127). -/
def execWriteVariable (addr : Word) (data : List (Byte × Byte)) (s : State) : Result :=
  deliverSend s (writeVariable addr data s)

/-- `writeVariableWord` (R128): the word is sent high byte first (D18). -/
def execWriteVariableWord (addr w : Word) (s : State) : Result :=
  deliverSend s (writeVariable addr [(highByte w, lowByte w)] s)

/-- `setRTC` (R129): the apply marker and the seven BCD bytes to the commit address. -/
def execSetRTC (value : DateTime) (s : State) : Result :=
  deliverSend s (writeRegister Config.rtcCommitAddr (rtcApplyMarker :: dt7Bytes (toBCD value)) s)

end Sys2Proof.Machine
end

