-- ==== Sys2Proof/Machine/FrameRx.lean ====
section
/-! DEFINITION. The frame parser (spec/43_frame_rx.md): the byte read, the drain, the expected-frame reader in its two
modes, the read operations and the event poll. Causes are found in the order of R176: the operand bounds, the channel,
then the fields in wire order. -/

namespace Sys2Proof.Machine

/-- The six validated fields of a register read response, in wire order (R142). -/
def expectedReg (s : State) (cmd addr n : Byte) : List (Field × Nat) :=
  [(.headerHigh, s.hdrH.toNat), (.headerLow, s.hdrL.toNat), (.length, n.toNat + 3), (.command, cmd.toNat),
    (.address, addr.toNat), (.count, n.toNat)]

/-- The seven validated fields of a variable read response, in wire order (R143). -/
def expectedVar (s : State) (cmd : Byte) (addr : Word) (n : Byte) : List (Field × Nat) :=
  [(.headerHigh, s.hdrH.toNat), (.headerLow, s.hdrL.toNat), (.length, 2 * n.toNat + 4), (.command, cmd.toNat),
    (.addressHigh, (highByte addr).toNat), (.addressLow, (lowByte addr).toNat), (.count, n.toNat)]

/-- `readExpectedFrame`, register mode (R142): after the last match, `n` data bytes that are not validated. -/
def readExpectedReg (cmd addr n : Byte) (s : State) : Attempt (List Byte) :=
  if maxRegReadLen < n.toNat then .refuse .lengthOverflow
  else if s.attached then
    (validate (expectedReg s cmd addr n) s).andThen fun _ s =>
      let r := readBytes n.toNat s
      .ok r.1 r.2
  else .fail .transportNotReady s

/-- `readExpectedFrame`, variable mode (R143). -/
def readExpectedVar (cmd : Byte) (addr : Word) (n : Byte) (s : State) : Attempt (List Word) :=
  if maxVarReadWords < n.toNat then .refuse .lengthOverflow
  else if s.attached then
    (validate (expectedVar s cmd addr n) s).andThen fun _ s =>
      let r := readWords n.toNat s
      .ok r.1 r.2
  else .fail .transportNotReady s

/-- `readRegister` (R144): drain, request, response. -/
def readRegister (addr n : Byte) (s : State) : Attempt (List Byte) :=
  if maxRegReadLen < n.toNat then .refuse .lengthOverflow
  else
    (drainInput s).andThen fun _ s =>
      (sendFrameHeader cmdRegRead 3 s).andThen fun _ s =>
        (sendByte addr s).andThen fun _ s =>
          (sendByte n s).andThen fun _ s => readExpectedReg cmdRegRead addr n s

/-- `readVariable` (R147): drain, request, response. -/
def readVariable (addr : Word) (n : Byte) (s : State) : Attempt (List Word) :=
  if maxVarReadWords < n.toNat then .refuse .lengthOverflow
  else
    (drainInput s).andThen fun _ s =>
      (sendFrameHeader Config.cmdVarRead 4 s).andThen fun _ s =>
        (sendWord addr s).andThen fun _ s =>
          (sendByte n s).andThen fun _ s => readExpectedVar Config.cmdVarRead addr n s

/-- The rest of an event frame after its first byte (R150): header low (compared only if `POLL_CHECK_HDR_L`), length,
command, address, count, then "always consumed" words, the first `maxWords` of them stored; the length is tested last,
on `nat` (D15). The cause of a header low mismatch is not named by R170: log entry 5. -/
def pollFrame (maxWords : Byte) (s : State) : Attempt DeviceEvent :=
  let low := rbt s
  if low.byte ≠ s.hdrL ∧ Config.pollCheckHdrL = true then .fail (.mismatch .headerLow) low.state
  else
    let len := rbt low.state
    let cmd := rbt len.state
    let high := rbt cmd.state
    let addrLow := rbt high.state
    let n := rbt addrLow.state
    let data := readWords n.byte.toNat n.state
    if len.byte.toNat = 4 + 2 * n.byte.toNat then
      .ok ⟨cmd.byte, packWord high.byte addrLow.byte, n.byte, data.1.take maxWords.toNat⟩ data.2
    else .fail .lengthMismatch data.2

/-- `pollEvent` (R150): non-blocking up to its first byte, which is taken with `RXPOP()`. -/
def pollEvent (maxWords : Byte) (s : State) : Attempt DeviceEvent :=
  if s.attached then
    match s.sync.rxq with
    | [] => .fail .noData s.sync
    | b :: later =>
      if b ≠ s.hdrH then .fail .notHeader { s.sync with rxq := later }
      else pollFrame maxWords { s.sync with rxq := later }
  else .fail .transportNotReady s

/-- The ghost cause of a bare `RBT()` (R170, R171, R172). -/
def byteReadCause (s : State) (r : ByteRead) : Cause :=
  if s.attached then if r.timedOut then .timeoutWithinRead else .none else .transportNotReady

/-- `readByteWithTimeout` (R140): a byte and nothing else, "no timeout flag, no error result". -/
def execReadByteWithTimeout (s : State) : Result :=
  whenConstructed s (.next ((rbt s).state.answer (.byte (rbt s).byte) (byteReadCause s (rbt s))))

/-- `drainInput` (R141): "it has no result at all"; without a channel, no effect (R171). -/
def execDrainInput (s : State) : Result :=
  whenConstructed s
    (if s.attached then deliver .nothing (fun _ => .nothing) (drainInput s)
      else takeFailure .nothing .transportNotReady s)

/-- `readExpectedFrame`, register mode (R142). -/
def execReadExpectedFrameReg (cmd addr n : Byte) (s : State) : Result :=
  whenConstructed s (deliver .failed .bytes (readExpectedReg cmd addr n s))

/-- `readExpectedFrame`, variable mode (R143). -/
def execReadExpectedFrameVar (cmd : Byte) (addr : Word) (n : Byte) (s : State) : Result :=
  whenConstructed s (deliver .failed .words (readExpectedVar cmd addr n s))

/-- `readRegister` (R144). -/
def execReadRegister (addr n : Byte) (s : State) : Result :=
  whenConstructed s (deliver .failed .bytes (readRegister addr n s))

/-- `readRegisterByte` (R145): "0 on failure", of either kind. -/
def execReadRegisterByte (addr : Byte) (s : State) : Result :=
  whenConstructed s (deliver (.byte 0) (fun data => .byte (data.getD 0 0)) (readRegister addr 1 s))

/-- `readRegisterWord` (R146): the first byte is the high byte. -/
def execReadRegisterWord (addr : Byte) (s : State) : Result :=
  whenConstructed s (deliver (.word 0) (fun data => .word (packWord (data.getD 0 0) (data.getD 1 0))) (readRegister addr 2 s))

/-- `readVariable` (R147). -/
def execReadVariable (addr : Word) (n : Byte) (s : State) : Result :=
  whenConstructed s (deliver .failed .words (readVariable addr n s))

/-- `readVariableWord` (R148). -/
def execReadVariableWord (addr : Word) (s : State) : Result :=
  whenConstructed s (deliver (.word 0) (fun ws => .word (ws.getD 0 0)) (readVariable addr 1 s))

/-- `getRTC` (R149): seven bytes from the "now" address, decoded with clamping. -/
def execGetRTC (s : State) : Result :=
  whenConstructed s (deliver .failed (fun data => .dateTime (fromBCD (dt7OfBytes data))) (readRegister Config.rtcNowAddr 7 s))

/-- `pollEvent` (R150): `some ev` or `none`. -/
def execPollEvent (maxWords : Byte) (s : State) : Result :=
  whenConstructed s (deliver .noEvent .event (pollEvent maxWords s))

end Sys2Proof.Machine
end

