-- ==== Sys2Proof/Machine/Session.lean ====
section
/-! DEFINITION. Session control (spec/44_session.md): construction, which is the block's reset, and the timeout. -/

namespace Sys2Proof.Machine

/-- `construct` (R160): the four session registers; "nothing is sent, `RXQ` is not drained, `CLOCK` is not read"; `TXS`
starts anew, being "the history of bytes written since construction" (R33). A header byte that is not given is its default. -/
def execConstruct (headerHigh headerLow : Option Byte) (channel : Bool) (s : State) : Result :=
  succeed .nothing
    { s with hdrH := headerHigh.getD hdrHInit, hdrL := headerLow.getD hdrLInit, timeoutMs := timeoutInit,
             attached := channel, constructed := true, txs := [] }

/-- `setTimeout` (R161): "every value is accepted, 0 included"; "it works with or without a channel". -/
def execSetTimeout (ms : Nat) (s : State) : Result :=
  whenConstructed s (succeed .nothing { s with timeoutMs := ms })

end Sys2Proof.Machine
end

