-- ==== Sys2Proof/Machine/Wire.lean ====
section
/-! DEFINITION. The formats of spec/30_encoding.md as instructions (log entry 9): a frame of the block goes out on `TXS`
exactly as its table gives it, a frame of the device reaches `RXQ`, a datum is read as the value its format gives it. -/

namespace Sys2Proof.Machine

/-- One frame of the block: the session's header bytes, then the body (R63, R75); not ready without a channel; refused
if its length does not fit its byte (R64). -/
def sendFrame (fits : Bool) (body : List Byte) (s : State) : Result :=
  whenConstructed s
    (if fits then deliver .failed (fun _ => .success) (sendRaw (s.hdrH :: s.hdrL :: body) s)
      else .refused .lengthOverflow)

/-- One frame of the device: the transport appends it to `RXQ` (R6, R28). No operation of the host ran: the host receives
nothing. Refused if its length does not fit its byte (R64). -/
def receiveFrame (fits : Bool) (frame : List Byte) (s : State) : Result :=
  if fits then .next { s with rxq := s.rxq ++ frame } else .refused .lengthOverflow

/-- `F_RW` (R65). -/
def execFRW (addr : Byte) (data : List Byte) (s : State) : Result :=
  sendFrame (data.length ≤ maxRegWriteLen) (bodyRW addr data) s

/-- `F_RRQ` (R66). -/
def execFRRQ (addr count : Byte) (s : State) : Result := sendFrame true (bodyRRQ addr count) s

/-- `F_RRS` (R67). -/
def execFRRS (h l addr : Byte) (data : List Byte) (s : State) : Result :=
  receiveFrame (data.length ≤ maxRegReadLen) (frameRRS h l addr data) s

/-- `F_VW` (R68). -/
def execFVW (addr : Word) (data : List (Byte × Byte)) (s : State) : Result :=
  sendFrame (data.length ≤ maxVarWriteWords) (bodyVW addr data) s

/-- `F_VRQ` (R69). -/
def execFVRQ (addr : Word) (count : Byte) (s : State) : Result := sendFrame true (bodyVRQ addr count) s

/-- `F_VRS` (R70). -/
def execFVRS (h l : Byte) (addr : Word) (words : List Word) (s : State) : Result :=
  receiveFrame (words.length ≤ maxVarReadWords) (frameWords h l Config.cmdVarRead addr words) s

/-- `F_EV` (R71): "The document gives no command code for events". -/
def execFEV (h l command : Byte) (addr : Word) (words : List Word) (s : State) : Result :=
  receiveFrame (words.length ≤ maxVarReadWords) (frameWords h l command addr words) s

/-- `F_RW.rtc_set` (R72). -/
def execFRWRtcSet (time : DT7) (s : State) : Result := sendFrame true (bodyRtcSet time) s

/-- `BCD8` (R60): "The value of the byte is `ones + 10*tens`". -/
def execBCD8 (tens ones : BitVec 4) (s : State) : Result := succeed (.byte (nibblesValue tens ones)) s

/-- `W16` (R61): "`w = high*256 + low`". -/
def execW16 (high low : Byte) (s : State) : Result := succeed (.word (packWord high low)) s

/-- `DT7` (R62): the seven values that its BCD bytes stand for, in the field order, not clamped (that is `fromBCD`). -/
def execDT7 (buffer : DT7) (s : State) : Result := succeed (.bytes ((dt7Bytes buffer).map decodeBCD)) s

end Sys2Proof.Machine
end

