-- ==== Sys2Proof/Machine/Dispatch.lean ====
section
/-! DEFINITION. One arm per instruction: the meaning that `exec` gives it. -/

namespace Sys2Proof.Machine

/-- The meaning of an instruction. -/
def exec (i : Instr) (s : State) : Host.Outcome State Fault Refusal :=
  match i with
  | .encodeBCD value => Sys2Proof.Machine.execEncodeBCD value s
  | .decodeBCD b => Sys2Proof.Machine.execDecodeBCD b s
  | .packWord high low => Sys2Proof.Machine.execPackWord high low s
  | .unpackWord w => Sys2Proof.Machine.execUnpackWord w s
  | .dateTimeFull year month day week hour minute second => Sys2Proof.Machine.execDateTimeFull year month day week hour minute second s
  | .dateTimeDateOnly year month day => Sys2Proof.Machine.execDateTimeDateOnly year month day s
  | .setYear dt y => Sys2Proof.Machine.execSetYear dt y s
  | .setYearOffset dt v => Sys2Proof.Machine.execSetYearOffset dt v s
  | .setMonth dt v => Sys2Proof.Machine.execSetMonth dt v s
  | .setDay dt v => Sys2Proof.Machine.execSetDay dt v s
  | .setWeek dt v => Sys2Proof.Machine.execSetWeek dt v s
  | .setHour dt v => Sys2Proof.Machine.execSetHour dt v s
  | .setMinute dt v => Sys2Proof.Machine.execSetMinute dt v s
  | .setSecond dt v => Sys2Proof.Machine.execSetSecond dt v s
  | .toBCD dt => Sys2Proof.Machine.execToBCD dt s
  | .fromBCD buffer => Sys2Proof.Machine.execFromBCD buffer s
  | .getYear dt => Sys2Proof.Machine.execGetYear dt s
  | .getMonth dt => Sys2Proof.Machine.execGetMonth dt s
  | .getDay dt => Sys2Proof.Machine.execGetDay dt s
  | .getWeek dt => Sys2Proof.Machine.execGetWeek dt s
  | .getHour dt => Sys2Proof.Machine.execGetHour dt s
  | .getMinute dt => Sys2Proof.Machine.execGetMinute dt s
  | .getSecond dt => Sys2Proof.Machine.execGetSecond dt s
  | .sendFrameHeader command length => Sys2Proof.Machine.execSendFrameHeader command length s
  | .sendByte b => Sys2Proof.Machine.execSendByte b s
  | .sendWord w => Sys2Proof.Machine.execSendWord w s
  | .sendBuffer bytes => Sys2Proof.Machine.execSendBuffer bytes s
  | .readByteWithTimeout => Sys2Proof.Machine.execReadByteWithTimeout s
  | .drainInput => Sys2Proof.Machine.execDrainInput s
  | .readExpectedFrameReg expectedCommand expectedAddress expectedDataLen => Sys2Proof.Machine.execReadExpectedFrameReg expectedCommand expectedAddress expectedDataLen s
  | .readExpectedFrameVar expectedCommand expectedAddress expectedDataLen => Sys2Proof.Machine.execReadExpectedFrameVar expectedCommand expectedAddress expectedDataLen s
  | .writeRegister addr data => Sys2Proof.Machine.execWriteRegister addr data s
  | .writeRegisterByte addr b => Sys2Proof.Machine.execWriteRegisterByte addr b s
  | .writeRegisterWord addr w => Sys2Proof.Machine.execWriteRegisterWord addr w s
  | .readRegister addr buffLen => Sys2Proof.Machine.execReadRegister addr buffLen s
  | .readRegisterByte addr => Sys2Proof.Machine.execReadRegisterByte addr s
  | .readRegisterWord addr => Sys2Proof.Machine.execReadRegisterWord addr s
  | .writeVariable addr data => Sys2Proof.Machine.execWriteVariable addr data s
  | .writeVariableWord addr w => Sys2Proof.Machine.execWriteVariableWord addr w s
  | .readVariable addr wordCount => Sys2Proof.Machine.execReadVariable addr wordCount s
  | .readVariableWord addr => Sys2Proof.Machine.execReadVariableWord addr s
  | .getRTC => Sys2Proof.Machine.execGetRTC s
  | .setRTC value => Sys2Proof.Machine.execSetRTC value s
  | .pollEvent maxWords => Sys2Proof.Machine.execPollEvent maxWords s
  | .construct headerHigh headerLow channel => Sys2Proof.Machine.execConstruct headerHigh headerLow channel s
  | .setTimeout ms => Sys2Proof.Machine.execSetTimeout ms s
  | .fRW addr data => Sys2Proof.Machine.execFRW addr data s
  | .fRRQ addr count => Sys2Proof.Machine.execFRRQ addr count s
  | .fRRS h l addr data => Sys2Proof.Machine.execFRRS h l addr data s
  | .fVW addr data => Sys2Proof.Machine.execFVW addr data s
  | .fVRQ addr count => Sys2Proof.Machine.execFVRQ addr count s
  | .fVRS h l addr words => Sys2Proof.Machine.execFVRS h l addr words s
  | .fEV h l command addr words => Sys2Proof.Machine.execFEV h l command addr words s
  | .fRWRtcSet time => Sys2Proof.Machine.execFRWRtcSet time s
  | .bcd8 tens ones => Sys2Proof.Machine.execBCD8 tens ones s
  | .w16 high low => Sys2Proof.Machine.execW16 high low s
  | .dt7 buffer => Sys2Proof.Machine.execDT7 buffer s

end Sys2Proof.Machine
end

