-- ==== Sys2Proof/Machine/Step.lean ====
section
/-! DEFINITION. One step of the machine: the next operation the host has issued runs from start to end (R6, R26, R48). -/

namespace Sys2Proof.Machine

/-- One step: the first request is taken, decoded and run, or refused by name. With no request the block waits and the
environment takes its turn ("Between any two steps the environment may also append bytes to `RXQ`", R153). -/
def step (s : State) : Host.Outcome State Fault Refusal :=
  match s.requests with
  | [] => .next s.sync
  | p :: rest =>
    match decode s.opsel p with
    | .ok i => exec i { s with requests := rest }
    | .error e => .refused (.undecodable e)

/-- `s` with the table word's packet as the next request, under the numbering of the table. -/
def State.withFetchWord (s : State) (nbits w : Nat) : State :=
  { s with requests := tablePacket nbits w :: s.requests, opsel := opselDefault }

end Sys2Proof.Machine
end

