-- ==== Sys2Proof/Machine/Flags.lean ====
section
/-! DEFINITION. The signals of an operation. The block has no persistent flag and no condition code (R27): what stands in
their place is the one success signal of each operation and the ghost codes of R170. -/

namespace Sys2Proof.Machine

/-- The "one success bit (or `some`/`none`)" that the host interface carries (R27, R170): whether the operation
reported success, for the operations that report it. -/
def successSignal : Reply → Option Bool
  | .success => some true
  | .bytes _ => some true
  | .words _ => some true
  | .dateTime _ => some true
  | .event _ => some true
  | .noEvent => some false
  | .failed => some false
  | .idle => none
  | .nothing => none
  | .byte _ => none
  | .word _ => none
  | .bytePair _ _ => none

/-- The cause codes of R170. -/
def causeCode : Cause → Nat
  | .none => 0
  | .transportNotReady => 1
  | .mismatch _ => 2
  | .timeoutWithinRead => 3
  | .noData => 4
  | .notHeader => 5
  | .lengthMismatch => 6

/-- The field codes of `Mismatch` (R170). -/
def fieldCode : Field → Nat
  | .headerHigh => 1
  | .headerLow => 2
  | .length => 3
  | .command => 4
  | .address => 5
  | .addressHigh => 5
  | .addressLow => 6
  | .count => 7

end Sys2Proof.Machine
end

