-- ==== Sys2Proof/Safety.lean ====
section
/-! DEFINITION. The terms in which claims speak of the machine: what two states share, the stream of bytes still to be
read, when the next byte arrives, and the invariant of every state a run reaches. No meaning uses them. -/

namespace Sys2Proof

/-- What an instruction may touch. -/
inductive Kind where
  /-- "The pure operations of `40_bytecodec.md` and `41_datetime.md`" (R162), and the data formats. -/
  | codec
  /-- The operations of spec/42_frame_tx.md, which "only append to `TXS`", and the block's frames. -/
  | send
  /-- The operations of spec/43_frame_rx.md that only take bytes from `RXQ`. -/
  | receive
  /-- The operations of spec/43_frame_rx.md that send a request and then take its response (R49). -/
  | exchange
  /-- `construct` (R160). -/
  | construct
  /-- `setTimeout` (R161). -/
  | setTimeout
  /-- A frame of the device, which the transport appends to `RXQ` (R6, R28). -/
  | delivery
deriving DecidableEq, Repr

/-- The kind of an instruction. -/
def Instr.kind : Instr → Kind
  | .encodeBCD _ | .decodeBCD _ | .packWord _ _ | .unpackWord _ => .codec
  | .dateTimeFull _ _ _ _ _ _ _ | .dateTimeDateOnly _ _ _ => .codec
  | .setYear _ _ | .setYearOffset _ _ | .setMonth _ _ | .setDay _ _ => .codec
  | .setWeek _ _ | .setHour _ _ | .setMinute _ _ | .setSecond _ _ => .codec
  | .toBCD _ | .fromBCD _ => .codec
  | .getYear _ | .getMonth _ | .getDay _ | .getWeek _ | .getHour _ | .getMinute _ | .getSecond _ => .codec
  | .bcd8 _ _ | .w16 _ _ | .dt7 _ => .codec
  | .sendFrameHeader _ _ | .sendByte _ | .sendWord _ | .sendBuffer _ => .send
  | .writeRegister _ _ | .writeRegisterByte _ _ | .writeRegisterWord _ _ => .send
  | .writeVariable _ _ | .writeVariableWord _ _ | .setRTC _ => .send
  | .fRW _ _ | .fRRQ _ _ | .fVW _ _ | .fVRQ _ _ | .fRWRtcSet _ => .send
  | .readByteWithTimeout | .drainInput | .pollEvent _ => .receive
  | .readExpectedFrameReg _ _ _ | .readExpectedFrameVar _ _ _ => .receive
  | .readRegister _ _ | .readRegisterByte _ | .readRegisterWord _ => .exchange
  | .readVariable _ _ | .readVariableWord _ | .getRTC => .exchange
  | .construct _ _ _ => .construct
  | .setTimeout _ => .setTimeout
  | .fRRS _ _ _ _ | .fVRS _ _ _ _ | .fEV _ _ _ _ _ => .delivery

/-- The operands keep every frame length within its byte (R7, R64, D14). -/
def Instr.InBounds : Instr → Prop
  | .writeRegister _ data => data.length ≤ 253
  | .writeVariable _ data => data.length ≤ 126
  | .readRegister _ n => n.toNat ≤ 252
  | .readVariable _ n => n.toNat ≤ 125
  | .readExpectedFrameReg _ _ n => n.toNat ≤ 252
  | .readExpectedFrameVar _ _ n => n.toNat ≤ 125
  | .fRW _ data => data.length ≤ 253
  | .fRRS _ _ _ data => data.length ≤ 252
  | .fVW _ data => data.length ≤ 126
  | .fVRS _ _ _ words => words.length ≤ 125
  | .fEV _ _ _ _ words => words.length ≤ 125
  | _ => True

/-- The operations that end in an "explicit success/failure signal" (R27, R170): those of the send side, the expected-frame
reader, the reads that collapse nothing, and the event poll, whose signal is `some` or `none`. -/
def Instr.Signals (i : Instr) : Prop :=
  i.kind = .send ∨ (∃ c a n, i = .readExpectedFrameReg c a n) ∨ (∃ c a n, i = .readExpectedFrameVar c a n) ∨
    (∃ a n, i = .readRegister a n) ∨ (∃ a n, i = .readVariable a n) ∨ i = .getRTC ∨ ∃ m, i = .pollEvent m

/-- The instruction begins by draining the receive queue (R141, R144, R147). -/
def Instr.Drains (i : Instr) : Prop := i = .drainInput ∨ i.kind = .exchange

end Sys2Proof

namespace Sys2Proof.Machine

/-- The session registers are the same (R177: "The session registers are unchanged"), and so is the map of the operations. -/
def SameSession (s t : State) : Prop :=
  t.hdrH = s.hdrH ∧ t.hdrL = s.hdrL ∧ t.timeoutMs = s.timeoutMs ∧ t.attached = s.attached ∧
    t.constructed = s.constructed ∧ t.opsel = s.opsel

/-- Byte pairs one after another, as the wire carries them (R68, R70, R71). -/
def onWire (pairs : List (Byte × Byte)) : List Byte := pairs.flatMap fun p => [p.1, p.2]

/-- The big-endian value of each byte pair, `high*256 + low` (R61). -/
def pairValues (pairs : List (Byte × Byte)) : List Nat := pairs.map fun p => 256 * p.1.toNat + p.2.toNat

/-- Everything but the receive side (`RXQ`, `CLOCK`, the environment's turns and the two read counts) is the same. -/
def OnlyReceives (s t : State) : Prop :=
  SameSession s t ∧ t.txs = s.txs ∧ t.requests = s.requests ∧ t.reply = s.reply ∧ t.cause = s.cause

/-- Every byte that the block can still take: the queue, then what the environment's turns will append to it. -/
def State.incoming (s : State) : List Byte := s.rxq ++ s.link.flatMap Arrival.bytes

/-- The time that the environment's turns will take. -/
def State.pendingTime (s : State) : Nat := (s.link.map Arrival.elapse).sum

/-- When the first byte of a list of turns arrives, `e` milliseconds having passed: `a - t0` of R140. -/
def firstArrival : Nat → List Arrival → Option Nat
  | _, [] => none
  | e, a :: rest => if a.bytes = [] then firstArrival (e + a.elapse) rest else some (e + a.elapse)

/-- The first byte of a list of turns. -/
def firstByte : List Arrival → Option Byte
  | [] => none
  | a :: rest => if a.bytes = [] then firstByte rest else a.bytes.head?

/-- What `calls` calls of `RBT()` leave (R152): the bytes taken came off the head of the incoming stream, "none on timeout",
one otherwise; time does not run backwards, and beyond the environment's turns each expired wait takes at most
`TIMEOUT_MS` (R198); nothing else changed. -/
def Received (s t : State) (taken : List Byte) (calls waits : Nat) : Prop :=
  s.incoming = taken ++ t.incoming ∧ taken.length + waits = calls ∧ t.rbtCalls = s.rbtCalls + calls ∧
    t.rbtTimeouts = s.rbtTimeouts + waits ∧ s.clock ≤ t.clock ∧
    t.clock + t.pendingTime ≤ s.clock + s.pendingTime + waits * s.timeoutMs ∧ OnlyReceives s t

/-- What `k` operations `readByteWithTimeout`, one after another, answer the host: the bytes, a timeout being the byte 0
(R140, R172), and the state they leave. It says what a read takes, whatever the environment does. -/
def byteReads : Nat → State → List Byte × State
  | 0, s => ([], s)
  | k + 1, s =>
    match exec .readByteWithTimeout s with
    | .next t =>
      match t.reply with
      | .byte b => (b :: (byteReads k t).1, (byteReads k t).2)
      | _ => ([], t)
    | _ => ([], s)

/-- A cause that a validated response can have (R173). -/
def Cause.isMismatch : Cause → Bool
  | .mismatch _ => true
  | _ => false

/-- R170's table, column "visible to the host as", by its cause codes: `ok`; failure, or what a failure without a channel or
at a validated field is turned into (R171, R179); the byte 0; `none`. -/
def Visible (r : Reply) : Nat → Prop
  | 0 => successSignal r ≠ some false
  | 1 => successSignal r = some false ∨ r = .byte 0 ∨ r = .word 0 ∨ r = .nothing
  | 2 => successSignal r = some false ∨ r = .byte 0 ∨ r = .word 0
  | 3 => r = .byte 0
  | 4 => r = .noEvent
  | 5 => r = .noEvent
  | 6 => r = .noEvent
  | _ => False

/-- What the host sees fits its cause, reply by reply: R170's column "visible to the host as", with R172 (a timeout is the value 0),
R171 and R179 (failures collapsed into 0, `none` or no effect), and R31 (no more words stored than declared). That `noEvent`
can stand for a mismatch of header low is the model's choice (log entry 5). -/
def Coherent : Reply → Cause → Prop
  | .failed, c => c = .transportNotReady ∨ c.isMismatch = true
  | .noEvent, c =>
    c = .transportNotReady ∨ c = .noData ∨ c = .notHeader ∨ c = .lengthMismatch ∨ c = .mismatch .headerLow
  | .byte b, c =>
    c = .none ∨ (b = 0 ∧ (c = .transportNotReady ∨ c = .timeoutWithinRead ∨ c.isMismatch = true))
  | .word w, c => c = .none ∨ (w = 0 ∧ (c = .transportNotReady ∨ c.isMismatch = true))
  | .nothing, c => c = .none ∨ c = .transportNotReady
  | .event ev, c => c = .none ∧ ev.data.length ≤ ev.dataLength.toNat
  | .idle, c => c = .none
  | .success, c => c = .none
  | .bytePair _ _, c => c = .none
  | .bytes _, c => c = .none
  | .words _, c => c = .none
  | .dateTime _, c => c = .none

/-- The invariant of the machine: the reply fits its cause and its cause code, no more waits have expired than byte reads
were made, the map of the operations is a numbering of them. -/
def State.Inv (s : State) : Prop :=
  Coherent s.reply s.cause ∧ Visible s.reply (causeCode s.cause) ∧ s.rbtTimeouts ≤ s.rbtCalls ∧ s.opsel.Valid

/-- A meaning that neither faults nor refuses. -/
def Completes (r : Result) : Prop := ∃ t, r = .next t

end Sys2Proof.Machine
end

