-- ==== Sys2Proof/Certificates/Slice0/Obligations.lean ====
section
/-! DEFINITION. The statements for the provers. Each docstring names what of spec/ it formalises; the values written out here
(0x80, 253, 2000, ...) are the spec's, so that a wrong constant of the model makes a statement false. -/

open Sys2Proof Sys2Proof.Machine

/-! ### Packets -/

/-- Every well-formed instruction is read back from its packet, whatever its operands and whatever the numbering of the
operations, the open parameter `OPSEL_MAP` (R7, R60 to R73, R81, R82). The packet form is the model's (log entry 2). -/
def Obligations.DecodeEncodeAgree : Prop :=
  ∀ (m : OpselMap) (i : Instr), m.Valid → i.WellFormed → decode m (encode m i) = .ok i

/-- A packet that decodes is the packet of the instruction it decodes to: no bit of it is dropped. The timeout is left out:
its number may have leading zeros (log entry 2). For every numbering of the operations (R7). -/
def Obligations.EncodeDecodeAgree : Prop :=
  ∀ (m : OpselMap) (p : Packet) (i : Instr), m.Valid → decode m p = .ok i → (∀ ms, i ≠ .setTimeout ms) → encode m i = p

/-- Whatever decodes is well formed (R64: every length fits its byte). -/
def Obligations.DecodedIsWellFormed : Prop :=
  ∀ (m : OpselMap) (p : Packet) (i : Instr), decode m p = .ok i → i.WellFormed

/-- Words written out from the spec: the programs P1 to P5 and example S4 of spec/95_test_vectors.md, under R81's default
numbering. The spec writes the channel of `construct` as "channel present", and a register write frame with its two header
bytes: the channel byte 0x01, and the packet of `F_RW` without the header bytes, are the model's choice (log entry 2). -/
def Obligations.SpecWordsDecode : Prop :=
  decode opselDefault ⟨.opsel, [0x50, 0xA5, 0x5A, 0x01]⟩ = .ok (.construct (some 0xA5) (some 0x5A) true) ∧
    decode opselDefault ⟨.opsel, [0x50, 0x01]⟩ = .ok (.construct none none true) ∧
    decode opselDefault ⟨.opsel, [0x10, 0x07, 0xE8, 0x03, 0x0F, 0x00, 0x0A, 0x1E, 0x00]⟩ =
      .ok (.dateTimeFull 2024 3 15 0 10 30 0) ∧
    decode opselDefault ⟨.opsel, [0x43, 0x10, 0x02]⟩ = .ok (.readRegister 0x10 2) ∧
    decode opselDefault ⟨.opsel, [0x47, 0x10, 0x00, 0x12, 0x34]⟩ = .ok (.writeVariableWord 0x1000 0x1234) ∧
    decode opselDefault ⟨.opsel, [0x51, 0x00, 0x32]⟩ = .ok (.setTimeout 50) ∧
    decode opselDefault ⟨.opsel, [0x01, 0x3B]⟩ = .ok (.encodeBCD 59) ∧
    decode opselDefault ⟨.opsel, [0x4C, 0x02]⟩ = .ok (.pollEvent 2) ∧
    decode opselDefault ⟨.fRW, [0x03, 0x80, 0x10, 0xFF]⟩ = .ok (.fRW 0x10 [0xFF]) ∧
    decode opselDefault ⟨.bcd8, [0x59]⟩ = .ok (.bcd8 5 9)

/-- "Every other `OPSEL` value selects no operation; a model refuses it" (R81): a code that the map gives no operation is refused,
whatever the map; and under R81's default map, every code outside its table. -/
def Obligations.UnassignedCodesRefused : Prop :=
  ∀ (s : State) (code : Byte) (ops : List Byte) (rest : List Packet), s.requests = ⟨.opsel, code :: ops⟩ :: rest →
    (code ∉ s.opsel.map Prod.snd → step s = .refused (.undecodable (.unassignedOpsel code))) ∧
      (s.opsel = opselDefault →
        code.toNat ∉ [0x01, 0x02, 0x03, 0x04, 0x10, 0x11, 0x12, 0x13, 0x14, 0x15, 0x16, 0x17, 0x18, 0x19, 0x1A, 0x1B,
          0x20, 0x21, 0x22, 0x23, 0x24, 0x25, 0x26, 0x30, 0x31, 0x32, 0x33, 0x34, 0x35, 0x36, 0x37, 0x40, 0x41, 0x42,
          0x43, 0x44, 0x45, 0x46, 0x47, 0x48, 0x49, 0x4A, 0x4B, 0x4C, 0x50, 0x51] →
        step s = .refused (.undecodable (.unassignedOpsel code)))

/-- A step runs the decoded instruction on the state without its request; it refuses a packet that decodes to none; with
no request the environment takes its turn (log entries 2 and 8). -/
def Obligations.StepRunsDecodedInstruction : Prop :=
  (∀ (s : State) (p : Packet) (rest : List Packet) (i : Instr), s.requests = p :: rest → decode s.opsel p = .ok i →
    step s = exec i { s with requests := rest }) ∧
    (∀ (s : State) (p : Packet) (rest : List Packet) (e : DecodeError), s.requests = p :: rest →
      decode s.opsel p = .error e → step s = .refused (.undecodable e)) ∧
    ∀ s : State, s.requests = [] → step s = .next s.sync

/-! ### ByteCodec and the data formats -/

/-- R90, R91. Encoding: the decimal digits in the nibbles up to 99, the open function above, never a failure. Decoding:
`ones + 10*tens`, each nibble at its face value. -/
def Obligations.BcdCodecResults : Prop :=
  (∀ (v : Byte) (s : State), ∃ r : Byte, exec (.encodeBCD v) s = .next (s.answer (.byte r) .none) ∧
    (v.toNat ≤ 99 → r.toNat = 16 * (v.toNat / 10) + v.toNat % 10) ∧ (99 < v.toNat → r = Config.encBcdOor v)) ∧
    ∀ (b : Byte) (s : State), ∃ r : Byte, exec (.decodeBCD b) s = .next (s.answer (.byte r) .none) ∧
      r.toNat = b.toNat % 16 + 10 * (b.toNat / 16)

/-- R92, R93: `256*high + low`, and `(w div 256, w mod 256)`. -/
def Obligations.WordPackerResults : Prop :=
  (∀ (high low : Byte) (s : State), ∃ w : Word, exec (.packWord high low) s = .next (s.answer (.word w) .none) ∧
    w.toNat = 256 * high.toNat + low.toNat) ∧
    ∀ (w : Word) (s : State), ∃ high low : Byte,
      exec (.unpackWord w) s = .next (s.answer (.bytePair high low) .none) ∧
        high.toNat = w.toNat / 256 ∧ low.toNat = w.toNat % 256

/-- R94 (a) and the part of (b) that holds for every `ENC_BCD_OOR`: encoding then decoding a value up to 99, and decoding
then encoding a byte whose nibbles are at most 9, give it back. -/
def Obligations.BcdRoundTrips : Prop :=
  (∀ (v : Byte) (s : State), v.toNat ≤ 99 → ∃ b : Byte, b.toNat / 16 ≤ 9 ∧ b.toNat % 16 ≤ 9 ∧
    exec (.encodeBCD v) s = .next (s.answer (.byte b) .none) ∧
    exec (.decodeBCD b) s = .next (s.answer (.byte v) .none)) ∧
    ∀ (b : Byte) (s : State), b.toNat / 16 ≤ 9 → b.toNat % 16 ≤ 9 → ∃ v : Byte, v.toNat ≤ 99 ∧
      exec (.decodeBCD b) s = .next (s.answer (.byte v) .none) ∧
      exec (.encodeBCD v) s = .next (s.answer (.byte b) .none)

/-- R60, R61, R62: what a BCD byte, a word and a date-time buffer stand for. That a format is an instruction which answers its
value is the model's choice (log entry 9). -/
def Obligations.DataFormatValues : Prop :=
  (∀ (tens ones : BitVec 4) (s : State), ∃ r : Byte,
    exec (.bcd8 tens ones) s = .next (s.answer (.byte r) .none) ∧ r.toNat = ones.toNat + 10 * tens.toNat) ∧
    (∀ (high low : Byte) (s : State), ∃ w : Word,
      exec (.w16 high low) s = .next (s.answer (.word w) .none) ∧ w.toNat = 256 * high.toNat + low.toNat) ∧
    ∀ (b : DT7) (s : State), ∃ vs : List Byte, exec (.dt7 b) s = .next (s.answer (.bytes vs) .none) ∧
      vs.map BitVec.toNat =
        [b.year, b.month, b.day, b.week, b.hour, b.minute, b.second].map fun x => x.toNat % 16 + 10 * (x.toNat / 16)

/-! ### DateTimeValue -/

/-- R101, R102: the year is saturated into 0 to 99, from a full year or an offset; "every other field" stays. A full year
below 2000 gives 0: decision D9 of the spec (log entry 11). -/
def Obligations.YearSettersSaturate : Prop :=
  (∀ (dt : DateTime) (y : Word) (s : State), ∃ v : Byte,
    exec (.setYear dt y) s = .next (s.answer (.dateTime { dt with year := v }) .none) ∧
      (v.toNat : Int) = max 0 (min ((y.toNat : Int) - 2000) 99)) ∧
    ∀ (dt : DateTime) (x : Byte) (s : State), ∃ v : Byte,
      exec (.setYearOffset dt x) s = .next (s.answer (.dateTime { dt with year := v }) .none) ∧
        v.toNat = min x.toNat 99

/-- R103 to R108: month, day, hour, minute and second are saturated into their ranges, the week is stored as given; "every
other field" stays. -/
def Obligations.FieldSettersSaturate : Prop :=
  ∀ (dt : DateTime) (x : Byte) (s : State),
    (∃ v : Byte, exec (.setMonth dt x) s = .next (s.answer (.dateTime { dt with month := v }) .none) ∧
      v.toNat = max 1 (min x.toNat 12)) ∧
      (∃ v : Byte, exec (.setDay dt x) s = .next (s.answer (.dateTime { dt with day := v }) .none) ∧
        v.toNat = max 1 (min x.toNat 31)) ∧
      exec (.setWeek dt x) s = .next (s.answer (.dateTime { dt with week := x }) .none) ∧
      (∃ v : Byte, exec (.setHour dt x) s = .next (s.answer (.dateTime { dt with hour := v }) .none) ∧
        v.toNat = min x.toNat 23) ∧
      (∃ v : Byte, exec (.setMinute dt x) s = .next (s.answer (.dateTime { dt with minute := v }) .none) ∧
        v.toNat = min x.toNat 59) ∧
      ∃ v : Byte, exec (.setSecond dt x) s = .next (s.answer (.dateTime { dt with second := v }) .none) ∧
        v.toNat = min x.toNat 59

/-- R109: the full year, and the six other fields unchanged. -/
def Obligations.GetterResults : Prop :=
  ∀ (dt : DateTime) (s : State),
    (∃ w : Word, exec (.getYear dt) s = .next (s.answer (.word w) .none) ∧ w.toNat = 2000 + dt.year.toNat) ∧
      exec (.getMonth dt) s = .next (s.answer (.byte dt.month) .none) ∧
      exec (.getDay dt) s = .next (s.answer (.byte dt.day) .none) ∧
      exec (.getWeek dt) s = .next (s.answer (.byte dt.week) .none) ∧
      exec (.getHour dt) s = .next (s.answer (.byte dt.hour) .none) ∧
      exec (.getMinute dt) s = .next (s.answer (.byte dt.minute) .none) ∧
      exec (.getSecond dt) s = .next (s.answer (.byte dt.second) .none)

/-- R110, R111: each operand is clamped as by its setter (a full year below 2000 gives 0: decision D9 of the spec, log entry 11); a
date-only value takes the open defaults for the rest (the model's choice not to fix them at 0: log entry 6). -/
def Obligations.ConstructedDateTimes : Prop :=
  (∀ (y : Word) (mo d w h mi sec : Byte) (s : State), ∃ r : DateTime,
    exec (.dateTimeFull y mo d w h mi sec) s = .next (s.answer (.dateTime r) .none) ∧
      (r.year.toNat : Int) = max 0 (min ((y.toNat : Int) - 2000) 99) ∧ r.month.toNat = max 1 (min mo.toNat 12) ∧
      r.day.toNat = max 1 (min d.toNat 31) ∧ r.week = w ∧ r.hour.toNat = min h.toNat 23 ∧
      r.minute.toNat = min mi.toNat 59 ∧ r.second.toNat = min sec.toNat 59) ∧
    ∀ (y : Word) (mo d : Byte) (s : State), ∃ r : DateTime,
      exec (.dateTimeDateOnly y mo d) s = .next (s.answer (.dateTime r) .none) ∧
        (r.year.toNat : Int) = max 0 (min ((y.toNat : Int) - 2000) 99) ∧ r.month.toNat = max 1 (min mo.toNat 12) ∧
        r.day.toNat = max 1 (min d.toNat 31) ∧ r.week = Config.dtDefaultWeek ∧
        r.hour.toNat = Config.dtDefaultHour.val ∧ r.minute.toNat = Config.dtDefaultMinute.val ∧
        r.second.toNat = Config.dtDefaultSecond.val

/-- R112: seven bytes in field order, each what `encodeBCD` answers for its field. -/
def Obligations.ToBcdResult : Prop :=
  ∀ (d : DateTime) (s : State), ∃ b0 b1 b2 b3 b4 b5 b6 : Byte,
    exec (.toBCD d) s = .next (s.answer (.bytes [b0, b1, b2, b3, b4, b5, b6]) .none) ∧
      exec (.encodeBCD d.year) s = .next (s.answer (.byte b0) .none) ∧
      exec (.encodeBCD d.month) s = .next (s.answer (.byte b1) .none) ∧
      exec (.encodeBCD d.day) s = .next (s.answer (.byte b2) .none) ∧
      exec (.encodeBCD d.week) s = .next (s.answer (.byte b3) .none) ∧
      exec (.encodeBCD d.hour) s = .next (s.answer (.byte b4) .none) ∧
      exec (.encodeBCD d.minute) s = .next (s.answer (.byte b5) .none) ∧
      exec (.encodeBCD d.second) s = .next (s.answer (.byte b6) .none)

/-- R113: each byte decoded, then clamped; "no byte value is rejected". -/
def Obligations.FromBcdResult : Prop :=
  ∀ (b : DT7) (s : State), ∃ d : DateTime, exec (.fromBCD b) s = .next (s.answer (.dateTime d) .none) ∧
    d.year.toNat = min (b.year.toNat % 16 + 10 * (b.year.toNat / 16)) 99 ∧
    d.month.toNat = max 1 (min (b.month.toNat % 16 + 10 * (b.month.toNat / 16)) 12) ∧
    d.day.toNat = max 1 (min (b.day.toNat % 16 + 10 * (b.day.toNat / 16)) 31) ∧
    d.week.toNat = b.week.toNat % 16 + 10 * (b.week.toNat / 16) ∧
    d.hour.toNat = min (b.hour.toNat % 16 + 10 * (b.hour.toNat / 16)) 23 ∧
    d.minute.toNat = min (b.minute.toNat % 16 + 10 * (b.minute.toNat / 16)) 59 ∧
    d.second.toNat = min (b.second.toNat % 16 + 10 * (b.second.toNat / 16)) 59

/-- R114, as far as it holds for every `ENC_BCD_OOR`: a valid date-time with a week of at most 99 is given back by
`fromBCD` of its `toBCD`. -/
def Obligations.DateTimeRoundTrip : Prop :=
  ∀ (d : DateTime) (s : State), d.Valid → d.week.toNat ≤ 99 → ∃ b : DT7,
    exec (.toBCD d) s = .next (s.answer (.bytes (dt7Bytes b)) .none) ∧
      exec (.fromBCD b) s = .next (s.answer (.dateTime d) .none)

/-- "every `dt` produced by the operations of `41_datetime.md` is valid" (R30), from a valid operand where there is one; and
so is the one `getRTC` returns (R149). -/
def Obligations.ProducedDateTimesAreValid : Prop :=
  (∀ (i : Instr) (s t : State) (d : DateTime), exec i s = .next t → t.reply = .dateTime d →
    ((∃ y mo da w h mi sec, i = .dateTimeFull y mo da w h mi sec) ∨ (∃ y mo da, i = .dateTimeDateOnly y mo da) ∨
      (∃ b, i = .fromBCD b) ∨ i = .getRTC) → d.Valid) ∧
    ∀ (dt : DateTime) (x : Byte) (y : Word) (s t : State) (d : DateTime) (i : Instr), dt.Valid →
      i ∈ [.setYear dt y, .setYearOffset dt x, .setMonth dt x, .setDay dt x, .setWeek dt x, .setHour dt x,
        .setMinute dt x, .setSecond dt x] →
      exec i s = .next t → t.reply = .dateTime d → d.Valid

/-! ### The send side -/

/-- R120 to R123: on an attached channel the bytes go out in order, and nothing else changes but the reply; without a channel
the writer fails and nothing changes but the reply. -/
def Obligations.PrimitiveWritersAppend : Prop :=
  ∀ s : State, s.constructed = true →
    (s.attached = true →
      (∀ command length : Byte, exec (.sendFrameHeader command length) s =
        .next ({ s with txs := s.txs ++ [s.hdrH, s.hdrL, length, command] }.answer .success .none)) ∧
        (∀ b : Byte, exec (.sendByte b) s = .next ({ s with txs := s.txs ++ [b] }.answer .success .none)) ∧
        (∀ w : Word, ∃ high low : Byte, high.toNat = w.toNat / 256 ∧ low.toNat = w.toNat % 256 ∧
          exec (.sendWord w) s = .next ({ s with txs := s.txs ++ [high, low] }.answer .success .none)) ∧
        ∀ bs : List Byte, exec (.sendBuffer bs) s = .next ({ s with txs := s.txs ++ bs }.answer .success .none)) ∧
      (s.attached = false →
        (∀ command length : Byte, exec (.sendFrameHeader command length) s =
          .next (s.answer .failed .transportNotReady)) ∧
          (∀ b : Byte, exec (.sendByte b) s = .next (s.answer .failed .transportNotReady)) ∧
          (∀ w : Word, exec (.sendWord w) s = .next (s.answer .failed .transportNotReady)) ∧
          ∀ bs : List Byte, exec (.sendBuffer bs) s = .next (s.answer .failed .transportNotReady))

/-- R124, R127, R128: header, frame length, command, address (a variable's high byte first), then the data as given, within the
operand bounds; nothing else changes but the reply. That a single word goes out high byte first is decision D18 of
spec/92_eei_decisions.md (log entry 13). -/
def Obligations.WritesEmitFrames : Prop :=
  ∀ s : State, s.constructed = true → s.attached = true →
    (∀ (addr : Byte) (data : List Byte), data.length ≤ 253 → ∃ len : Byte, len.toNat = 2 + data.length ∧
      exec (.writeRegister addr data) s =
        .next ({ s with txs := s.txs ++ ([s.hdrH, s.hdrL, len, 0x80, addr] ++ data) }.answer .success .none)) ∧
      (∀ (addr : Word) (data : List (Byte × Byte)), data.length ≤ 126 →
        ∃ len ah al : Byte, len.toNat = 3 + 2 * data.length ∧ ah.toNat = addr.toNat / 256 ∧
          al.toNat = addr.toNat % 256 ∧
          exec (.writeVariable addr data) s =
            .next ({ s with txs := s.txs ++ ([s.hdrH, s.hdrL, len, Config.cmdVarWrite, ah, al] ++ onWire data) }.answer
              .success .none)) ∧
      ∀ addr w : Word, ∃ ah al high low : Byte, ah.toNat = addr.toNat / 256 ∧ al.toNat = addr.toNat % 256 ∧
        high.toNat = w.toNat / 256 ∧ low.toNat = w.toNat % 256 ∧
        exec (.writeVariableWord addr w) s =
          .next ({ s with txs := s.txs ++ [s.hdrH, s.hdrL, 0x05, Config.cmdVarWrite, ah, al, high, low] }.answer
            .success .none)

/-- R125, R126: one byte, or a word as two bytes, the high byte first; never refused; without a channel they fail and nothing
changes but the reply. -/
def Obligations.WriteWrappersEmitFrames : Prop :=
  ∀ s : State, s.constructed = true →
    (s.attached = true →
      (∀ addr b : Byte, exec (.writeRegisterByte addr b) s =
        .next ({ s with txs := s.txs ++ [s.hdrH, s.hdrL, 0x03, 0x80, addr, b] }.answer .success .none)) ∧
        ∀ (addr : Byte) (w : Word), ∃ high low : Byte, high.toNat = w.toNat / 256 ∧ low.toNat = w.toNat % 256 ∧
          exec (.writeRegisterWord addr w) s =
            .next ({ s with txs := s.txs ++ [s.hdrH, s.hdrL, 0x04, 0x80, addr, high, low] }.answer .success .none)) ∧
      (s.attached = false →
        (∀ addr b : Byte, exec (.writeRegisterByte addr b) s = .next (s.answer .failed .transportNotReady)) ∧
          ∀ (addr : Byte) (w : Word), exec (.writeRegisterWord addr w) s =
            .next (s.answer .failed .transportNotReady))

/-- R129: the frame length byte 0x0A, the commit address, the apply marker 0x5A, then the bytes of `toBCD`; without a channel it
fails and nothing changes but the reply. -/
def Obligations.SetRtcEmitsFrame : Prop :=
  ∀ (d : DateTime) (s : State), s.constructed = true →
    (s.attached = true → ∃ bs : List Byte, bs.length = 7 ∧
      exec (.toBCD d) s = .next (s.answer (.bytes bs) .none) ∧
      exec (.setRTC d) s =
        .next ({ s with txs := s.txs ++ ([s.hdrH, s.hdrL, 0x0A, 0x80, Config.rtcCommitAddr, 0x5A] ++ bs) }.answer
          .success .none)) ∧
      (s.attached = false → exec (.setRTC d) s = .next (s.answer .failed .transportNotReady))

/-- R65, R66, R68, R69, R72: the block's frames, byte by byte. That a format is an instruction is the model's choice (log
entry 9). -/
def Obligations.BlockFramesGoOut : Prop :=
  ∀ s : State, s.constructed = true → s.attached = true →
    (∀ (addr : Byte) (data : List Byte), data.length ≤ 253 → ∃ len : Byte, len.toNat = 2 + data.length ∧
      exec (.fRW addr data) s =
        .next ({ s with txs := s.txs ++ ([s.hdrH, s.hdrL, len, 0x80, addr] ++ data) }.answer .success .none)) ∧
      (∀ addr count : Byte, exec (.fRRQ addr count) s =
        .next ({ s with txs := s.txs ++ [s.hdrH, s.hdrL, 3, 0x81, addr, count] }.answer .success .none)) ∧
      (∀ (addr : Word) (data : List (Byte × Byte)), data.length ≤ 126 →
        ∃ len ah al : Byte, len.toNat = 3 + 2 * data.length ∧ ah.toNat = addr.toNat / 256 ∧
          al.toNat = addr.toNat % 256 ∧
          exec (.fVW addr data) s =
            .next ({ s with txs := s.txs ++ ([s.hdrH, s.hdrL, len, Config.cmdVarWrite, ah, al] ++ onWire data) }.answer
              .success .none)) ∧
      (∀ (addr : Word) (count : Byte), ∃ ah al : Byte, ah.toNat = addr.toNat / 256 ∧ al.toNat = addr.toNat % 256 ∧
        exec (.fVRQ addr count) s =
          .next ({ s with txs := s.txs ++ [s.hdrH, s.hdrL, 4, Config.cmdVarRead, ah, al, count] }.answer
            .success .none)) ∧
      ∀ b : DT7, exec (.fRWRtcSet b) s =
        .next ({ s with txs := s.txs ++ [s.hdrH, s.hdrL, 0x0A, 0x80, Config.rtcCommitAddr, 0x5A, b.year, b.month, b.day,
          b.week, b.hour, b.minute, b.second] }.answer .success .none)

/-- R130 (b), (c): with a channel and operands within bounds every operation of the send side succeeds and changes `TXS`
alone, by appending bytes that depend on the operands and the two header bytes only: not on `TIMEOUT_MS`, nor on `RXQ` or
`CLOCK`. Which bytes they are is stated instruction by instruction above. That the block's five frame formats are instructions of
the send side is the model's choice (log entry 9). -/
def Obligations.SendOnlyAppends : Prop :=
  ∀ i : Instr, i.kind = .send → i.InBounds → ∃ bytes : Byte → Byte → List Byte,
    ∀ s : State, s.constructed = true → s.attached = true →
      exec i s = .next ({ s with txs := s.txs ++ bytes s.hdrH s.hdrL }.answer .success .none)

/-- R130 (d): the operations above the primitive writers append one well-formed frame: the session's header bytes, then a
length byte that "equals the number of bytes that follow it". -/
def Obligations.SentFramesAreWellFormed : Prop :=
  ∀ (i : Instr) (s t : State), i.kind = .send → (∀ c l, i ≠ .sendFrameHeader c l) → (∀ b, i ≠ .sendByte b) →
    (∀ w, i ≠ .sendWord w) → (∀ bs, i ≠ .sendBuffer bs) → s.attached = true → exec i s = .next t →
    ∃ (len : Byte) (body : List Byte), len.toNat = body.length ∧
      t.txs = s.txs ++ (s.hdrH :: s.hdrL :: len :: body)

/-- The operations that build frames from the primitive writers send what the formats of R65, R68 and R72 lay out, in every
state and for every operand, the failing and the refused ones too. That the formats are instructions, and fail and are refused
as the writes are, is the model's choice (log entry 9). -/
def Obligations.WritesAreTheirFormats : Prop :=
  ∀ s : State,
    (∀ (addr : Byte) (data : List Byte), exec (.writeRegister addr data) s = exec (.fRW addr data) s) ∧
      (∀ (addr : Word) (data : List (Byte × Byte)), exec (.writeVariable addr data) s = exec (.fVW addr data) s) ∧
      ∀ (d : DateTime) (b : DT7), exec (.toBCD d) s = .next (s.answer (.bytes (dt7Bytes b)) .none) →
        exec (.setRTC d) s = exec (.fRWRtcSet b) s

/-! ### The receive side -/

/-- R140 (a): a byte that is there when the call starts is returned and removed, "and no waiting occurs". -/
def Obligations.QueuedByteIsReturned : Prop :=
  ∀ (s : State) (b : Byte) (later : List Byte), s.constructed = true → s.attached = true → 1 ≤ s.timeoutMs →
    s.sync.rxq = b :: later →
    exec .readByteWithTimeout s =
      .next ({ s.sync with rxq := later, rbtCalls := s.rbtCalls + 1 }.answer (.byte b) .none)

/-- R140 (b): an empty queue and a first byte that arrives before the timeout: that byte, removed, not before its arrival. -/
def Obligations.ArrivingByteIsReturned : Prop :=
  ∀ (s : State) (b : Byte) (d : Nat), s.constructed = true → s.attached = true → s.sync.rxq = [] →
    firstArrival 0 s.sync.link = some d → firstByte s.sync.link = some b → d < s.timeoutMs →
    ∃ u : State, exec .readByteWithTimeout s = .next (u.answer (.byte b) .none) ∧ Received s u [b] 1 0 ∧
      s.sync.clock + d ≤ u.clock

/-- R140 (c): no byte up to and including the timeout: the result is 0, nothing is removed, and "the call
ends at a time at or after t0 + T"; its ghost cause has code 3 (R170). -/
def Obligations.SilentWaitReturnsZero : Prop :=
  ∀ s : State, s.constructed = true → s.attached = true → s.sync.rxq = [] →
    (∀ d, firstArrival 0 s.sync.link = some d → s.timeoutMs < d) →
    ∃ u : State, exec .readByteWithTimeout s = .next (u.answer (.byte 0) .timeoutWithinRead) ∧ Received s u [] 1 1 ∧
      u.rxq = [] ∧ s.sync.clock + s.timeoutMs ≤ u.clock ∧ causeCode .timeoutWithinRead = 3

/-- R140 (d): a first byte at exactly the timeout, or a timeout of 0 with a byte queued: that byte, removed, or 0 with the
byte left; whichever the implementation chooses. -/
def Obligations.BoundaryByteIsEither : Prop :=
  ∀ (s : State) (b : Byte), s.constructed = true → s.attached = true →
    ((s.sync.rxq = [] ∧ firstArrival 0 s.sync.link = some s.timeoutMs ∧ firstByte s.sync.link = some b) ∨
      (s.timeoutMs = 0 ∧ s.sync.rxq.head? = some b)) →
    ∃ u : State,
      (exec .readByteWithTimeout s = .next (u.answer (.byte b) .none) ∧ Received s u [b] 1 0) ∨
        (exec .readByteWithTimeout s = .next (u.answer (.byte 0) .timeoutWithinRead) ∧ Received s u [] 1 1 ∧
          u.rxq.head? = some b)

/-- R171, R130 (a): without a channel the operations of the send side and the reads fail, the collapsing wrappers and the byte
read give 0, `pollEvent` gives none and `drainInput` has no effect, each at once and with nothing changed but the reply; the ghost
cause has code 1 (R170). The outcomes of the byte read, `drainInput` and `pollEvent` are decision D7 of the spec; that such a
call takes no turn of the environment is the model's choice (log entry 19), and so is that the block's five frame formats are
among the send side (log entry 9). -/
def Obligations.WithoutChannelNothingHappens : Prop :=
  causeCode .transportNotReady = 1 ∧ ∀ s : State, s.constructed = true → s.attached = false →
    (∀ i : Instr, i.kind = .send → i.InBounds → exec i s = .next (s.answer .failed .transportNotReady)) ∧
      exec .readByteWithTimeout s = .next (s.answer (.byte 0) .transportNotReady) ∧
      exec .drainInput s = .next (s.answer .nothing .transportNotReady) ∧
      (∀ m : Byte, exec (.pollEvent m) s = .next (s.answer .noEvent .transportNotReady)) ∧
      (∀ c a n : Byte, n.toNat ≤ 252 →
        exec (.readExpectedFrameReg c a n) s = .next (s.answer .failed .transportNotReady)) ∧
      (∀ (c : Byte) (a : Word) (n : Byte), n.toNat ≤ 125 →
        exec (.readExpectedFrameVar c a n) s = .next (s.answer .failed .transportNotReady)) ∧
      (∀ a n : Byte, n.toNat ≤ 252 → exec (.readRegister a n) s = .next (s.answer .failed .transportNotReady)) ∧
      (∀ (a : Word) (n : Byte), n.toNat ≤ 125 →
        exec (.readVariable a n) s = .next (s.answer .failed .transportNotReady)) ∧
      exec .getRTC s = .next (s.answer .failed .transportNotReady) ∧
      (∀ a : Byte, exec (.readRegisterByte a) s = .next (s.answer (.byte 0) .transportNotReady)) ∧
      (∀ a : Byte, exec (.readRegisterWord a) s = .next (s.answer (.word 0) .transportNotReady)) ∧
      ∀ a : Word, exec (.readVariableWord a) s = .next (s.answer (.word 0) .transportNotReady)

/-- R145, R146, R148, R179: each collapsing wrapper answers the datum where its read succeeds and 0 where it fails, in the state
the read leaves. That the first byte of a register word is the high one is decision D18 of the spec (log entry 13). -/
def Obligations.CollapsingWrappersFollowTheirReads : Prop :=
  ∀ s u : State,
    (∀ addr : Byte, exec (.readRegister addr 1) s = .next u →
      (∀ b : Byte, u.reply = .bytes [b] → exec (.readRegisterByte addr) s = .next (u.answer (.byte b) .none)) ∧
        (u.reply = .failed → exec (.readRegisterByte addr) s = .next (u.answer (.byte 0) u.cause)) ∧
        (u.reply = .failed ∨ ∃ b, u.reply = .bytes [b])) ∧
      (∀ addr : Byte, exec (.readRegister addr 2) s = .next u →
        (∀ high low : Byte, u.reply = .bytes [high, low] → ∃ w : Word, w.toNat = 256 * high.toNat + low.toNat ∧
          exec (.readRegisterWord addr) s = .next (u.answer (.word w) .none)) ∧
          (u.reply = .failed → exec (.readRegisterWord addr) s = .next (u.answer (.word 0) u.cause)) ∧
          (u.reply = .failed ∨ ∃ high low, u.reply = .bytes [high, low])) ∧
      ∀ addr : Word, exec (.readVariable addr 1) s = .next u →
        (∀ w : Word, u.reply = .words [w] → exec (.readVariableWord addr) s = .next (u.answer (.word w) .none)) ∧
          (u.reply = .failed → exec (.readVariableWord addr) s = .next (u.answer (.word 0) u.cause)) ∧
          (u.reply = .failed ∨ ∃ w, u.reply = .words [w])

/-- R141: every buffered byte is discarded, after the environment's turn; nothing else changes but the reply. -/
def Obligations.DrainEmptiesQueue : Prop :=
  ∀ s : State, s.constructed = true → s.attached = true → s.drainEnds = true →
    exec .drainInput s = .next ({ s.sync with rxq := [] }.answer .nothing .none)

/-- R141, R203: a drain on "a link that never pauses does not end", alone or at the start of a read. -/
def Obligations.EndlessDrainIsStuck : Prop :=
  ∀ (i : Instr) (s : State), i.Drains → i.InBounds → s.constructed = true → s.attached = true → s.drainEnds = false →
    exec i s = .fault .drainNeverEnds

/-- R142, R151, R172: the reader returns the data of the expected frame, in 6 + n byte reads. First, for every environment: if as
many byte reads would return the expected six bytes and then n more, a timeout being the byte 0, the reader returns those n and
leaves what the byte reads leave; so a timed-out data byte is a 0, and a timeout passes where 0 is expected. Second, on the
streams: if the frame is queued, or its last z bytes are 0 and the link falls silent before them, the reader takes exactly the
bytes received, and z of its waits expire. -/
def Obligations.ExpectedRegisterFrameIsRead : Prop :=
  ∀ (s : State) (cmd addr n len : Byte) (data : List Byte), s.constructed = true → s.attached = true →
    n.toNat ≤ 252 → data.length = n.toNat → len.toNat = n.toNat + 3 →
    (∀ t : State, byteReads (6 + n.toNat) s = ([s.hdrH, s.hdrL, len, cmd, addr, n] ++ data, t) →
      exec (.readExpectedFrameReg cmd addr n) s = .next (t.answer (.bytes data) .none)) ∧
      ∀ (received rest : List Byte) (z : Nat), 1 ≤ s.timeoutMs → s.rxq = received ++ rest →
        (z = 0 ∨ (rest = [] ∧ s.link = [])) →
        received ++ List.replicate z 0 = [s.hdrH, s.hdrL, len, cmd, addr, n] ++ data →
        ∃ u : State, exec (.readExpectedFrameReg cmd addr n) s = .next (u.answer (.bytes data) .none) ∧
          Received s u received (6 + n.toNat) z

/-- R143, R151, R172: the same in variable mode, the words high byte first, in 7 + 2n byte reads: a timed-out byte is a 0 in its half
of the word. -/
def Obligations.ExpectedVariableFrameIsRead : Prop :=
  ∀ (s : State) (cmd : Byte) (addr : Word) (n len ah al : Byte) (pairs : List (Byte × Byte)) (words : List Word),
    s.constructed = true → s.attached = true → n.toNat ≤ 125 → pairs.length = n.toNat →
    len.toNat = 2 * n.toNat + 4 → ah.toNat = addr.toNat / 256 → al.toNat = addr.toNat % 256 →
    words.map BitVec.toNat = pairValues pairs →
    (∀ t : State, byteReads (7 + 2 * n.toNat) s = ([s.hdrH, s.hdrL, len, cmd, ah, al, n] ++ onWire pairs, t) →
      exec (.readExpectedFrameVar cmd addr n) s = .next (t.answer (.words words) .none)) ∧
      ∀ (received rest : List Byte) (z : Nat), 1 ≤ s.timeoutMs → s.rxq = received ++ rest →
        (z = 0 ∨ (rest = [] ∧ s.link = [])) →
        received ++ List.replicate z 0 = [s.hdrH, s.hdrL, len, cmd, ah, al, n] ++ onWire pairs →
        ∃ u : State, exec (.readExpectedFrameVar cmd addr n) s = .next (u.answer (.words words) .none) ∧
          Received s u received (7 + 2 * n.toNat) z

/-- R142, R170, R173, R176: register mode, the first field that differs is the one reported, by its field code (5 for the address, 7
for the count), under cause code 2. First, for every environment: the byte reads up to that field are made, a timeout being the
byte 0, and no more. Second, on the streams: with those bytes queued they are consumed, and "no later byte is read". -/
def Obligations.RegisterMismatchStopsAtField : Prop :=
  ∀ (s : State) (cmd addr n bad : Byte) (good : List Byte) (before after : List (Field × Nat)) (f : Field) (e : Nat),
    s.constructed = true → s.attached = true → n.toNat ≤ 252 →
    [(.headerHigh, s.hdrH.toNat), (.headerLow, s.hdrL.toNat), (.length, n.toNat + 3), (.command, cmd.toNat),
      (.address, addr.toNat), (.count, n.toNat)] = before ++ (f, e) :: after →
    good.map BitVec.toNat = before.map Prod.snd → bad.toNat ≠ e →
    causeCode (.mismatch f) = 2 ∧ fieldCode f = (if before.length = 5 then 7 else before.length + 1) ∧
      (∀ t : State, byteReads (good.length + 1) s = (good ++ [bad], t) →
        exec (.readExpectedFrameReg cmd addr n) s = .next (t.answer .failed (.mismatch f))) ∧
      ∀ rest : List Byte, 1 ≤ s.timeoutMs → s.rxq = good ++ bad :: rest →
        ∃ u : State, exec (.readExpectedFrameReg cmd addr n) s = .next (u.answer .failed (.mismatch f)) ∧
          Received s u (good ++ [bad]) (good.length + 1) 0

/-- R143, R170, R173, R176: the same in variable mode, the address one byte at a time, high byte first (field codes 5 and 6). -/
def Obligations.VariableMismatchStopsAtField : Prop :=
  ∀ (s : State) (cmd : Byte) (addr : Word) (n bad : Byte) (good : List Byte) (before after : List (Field × Nat))
    (f : Field) (e : Nat), s.constructed = true → s.attached = true → n.toNat ≤ 125 →
    [(.headerHigh, s.hdrH.toNat), (.headerLow, s.hdrL.toNat), (.length, 2 * n.toNat + 4), (.command, cmd.toNat),
      (.addressHigh, addr.toNat / 256), (.addressLow, addr.toNat % 256), (.count, n.toNat)] =
        before ++ (f, e) :: after →
    good.map BitVec.toNat = before.map Prod.snd → bad.toNat ≠ e →
    causeCode (.mismatch f) = 2 ∧ fieldCode f = before.length + 1 ∧
      (∀ t : State, byteReads (good.length + 1) s = (good ++ [bad], t) →
        exec (.readExpectedFrameVar cmd addr n) s = .next (t.answer .failed (.mismatch f))) ∧
      ∀ rest : List Byte, 1 ≤ s.timeoutMs → s.rxq = good ++ bad :: rest →
        ∃ u : State, exec (.readExpectedFrameVar cmd addr n) s = .next (u.answer .failed (.mismatch f)) ∧
          Received s u (good ++ [bad]) (good.length + 1) 0

/-- R144: on an attached channel whose transport pauses, the environment's turn is taken, the queue is drained, the request
`[H][L][3][0x81][addr][n]` is sent, and what follows is the expected-frame reader, whose answers are stated above for every
environment, timeouts among them. So a response that arrives whole with the environment's next turn is returned, and what
follows it stays. -/
def Obligations.ReadRegisterReturnsResponse : Prop :=
  ∀ (s : State) (addr n : Byte), s.constructed = true → s.attached = true → n.toNat ≤ 252 →
    (s.drainEnds = true → exec (.readRegister addr n) s = exec (.readExpectedFrameReg 0x81 addr n)
      { s.sync with rxq := [], txs := s.txs ++ [s.hdrH, s.hdrL, 3, 0x81, addr, n] }) ∧
      ∀ (len : Byte) (data rest : List Byte) (first response : Arrival) (more : List Arrival), 1 ≤ s.timeoutMs →
        data.length = n.toNat → len.toNat = n.toNat + 3 → s.link = first :: response :: more → first.endless = false →
        response.bytes = [s.hdrH, s.hdrL, len, 0x81, addr, n] ++ data ++ rest →
        ∃ u : State, exec (.readRegister addr n) s = .next (u.answer (.bytes data) .none) ∧ SameSession s u ∧
          u.txs = s.txs ++ [s.hdrH, s.hdrL, 3, 0x81, addr, n] ∧ u.requests = s.requests ∧
          u.incoming = rest ++ more.flatMap Arrival.bytes ∧ u.rbtCalls = s.rbtCalls + (6 + n.toNat) ∧
          u.rbtTimeouts = s.rbtTimeouts

/-- R145, R146, R148: the wrappers return the register's byte, or two bytes as a word, the first the high byte (for a register:
decision D18, log entry 13), of a response that arrives whole; of any other, CollapsingWrappersFollowTheirReads says it. -/
def Obligations.ReadWrappersReturnResponse : Prop :=
  ∀ (s : State) (rest : List Byte) (first response : Arrival) (more : List Arrival),
    s.constructed = true → s.attached = true → 1 ≤ s.timeoutMs → s.link = first :: response :: more →
    first.endless = false →
    (∀ addr b : Byte, response.bytes = [s.hdrH, s.hdrL, 0x04, 0x81, addr, 0x01, b] ++ rest →
      ∃ u : State, exec (.readRegisterByte addr) s = .next (u.answer (.byte b) .none) ∧ SameSession s u ∧
        u.txs = s.txs ++ [s.hdrH, s.hdrL, 3, 0x81, addr, 1] ∧ u.requests = s.requests ∧
        u.incoming = rest ++ more.flatMap Arrival.bytes) ∧
      (∀ addr high low : Byte, response.bytes = [s.hdrH, s.hdrL, 0x05, 0x81, addr, 0x02, high, low] ++ rest →
        ∃ (u : State) (w : Word), w.toNat = 256 * high.toNat + low.toNat ∧
          exec (.readRegisterWord addr) s = .next (u.answer (.word w) .none) ∧ SameSession s u ∧
          u.txs = s.txs ++ [s.hdrH, s.hdrL, 3, 0x81, addr, 2] ∧ u.requests = s.requests ∧
          u.incoming = rest ++ more.flatMap Arrival.bytes) ∧
      ∀ (addr : Word) (ah al high low : Byte), ah.toNat = addr.toNat / 256 → al.toNat = addr.toNat % 256 →
        response.bytes = [s.hdrH, s.hdrL, 0x06, Config.cmdVarRead, ah, al, 0x01, high, low] ++ rest →
        ∃ (u : State) (w : Word), w.toNat = 256 * high.toNat + low.toNat ∧
          exec (.readVariableWord addr) s = .next (u.answer (.word w) .none) ∧ SameSession s u ∧
          u.txs = s.txs ++ [s.hdrH, s.hdrL, 4, Config.cmdVarRead, ah, al, 1] ∧ u.requests = s.requests ∧
          u.incoming = rest ++ more.flatMap Arrival.bytes

/-- R147: as readRegister, with the request `[H][L][4][CMD_VAR_READ][addrHigh][addrLow][n]`; each word high byte first. -/
def Obligations.ReadVariableReturnsResponse : Prop :=
  ∀ (s : State) (addr : Word) (n ah al : Byte), s.constructed = true → s.attached = true → n.toNat ≤ 125 →
    ah.toNat = addr.toNat / 256 → al.toNat = addr.toNat % 256 →
    (s.drainEnds = true → exec (.readVariable addr n) s = exec (.readExpectedFrameVar Config.cmdVarRead addr n)
      { s.sync with rxq := [], txs := s.txs ++ [s.hdrH, s.hdrL, 4, Config.cmdVarRead, ah, al, n] }) ∧
      ∀ (len : Byte) (pairs : List (Byte × Byte)) (words : List Word) (rest : List Byte) (first response : Arrival)
        (more : List Arrival), 1 ≤ s.timeoutMs → pairs.length = n.toNat → len.toNat = 2 * n.toNat + 4 →
        words.map BitVec.toNat = pairValues pairs → s.link = first :: response :: more → first.endless = false →
        response.bytes = [s.hdrH, s.hdrL, len, Config.cmdVarRead, ah, al, n] ++ onWire pairs ++ rest →
        ∃ u : State, exec (.readVariable addr n) s = .next (u.answer (.words words) .none) ∧ SameSession s u ∧
          u.txs = s.txs ++ [s.hdrH, s.hdrL, 4, Config.cmdVarRead, ah, al, n] ∧ u.requests = s.requests ∧
          u.incoming = rest ++ more.flatMap Arrival.bytes ∧ u.rbtCalls = s.rbtCalls + (7 + 2 * n.toNat) ∧
          u.rbtTimeouts = s.rbtTimeouts

/-- R149: a register read of seven bytes at the "now" address, whatever it meets: where it fails `getRTC` fails in the same state,
where it returns seven bytes `getRTC` answers the `dt` that `fromBCD` gives them, and there is no third case. So a response that
arrives whole is returned as a `dt`. -/
def Obligations.GetRtcReturnsResponse : Prop :=
  (∀ s u : State, exec (.readRegister Config.rtcNowAddr 7) s = .next u →
    (u.reply = .failed → exec .getRTC s = .next u) ∧
      (∀ b : DT7, u.reply = .bytes [b.year, b.month, b.day, b.week, b.hour, b.minute, b.second] →
        ∃ d : DateTime, exec (.fromBCD b) s = .next (s.answer (.dateTime d) .none) ∧
          exec .getRTC s = .next (u.answer (.dateTime d) .none)) ∧
      (u.reply = .failed ∨
        ∃ b : DT7, u.reply = .bytes [b.year, b.month, b.day, b.week, b.hour, b.minute, b.second])) ∧
    ∀ (s : State) (b : DT7) (rest : List Byte) (first response : Arrival) (more : List Arrival),
      s.constructed = true → s.attached = true → 1 ≤ s.timeoutMs → s.link = first :: response :: more →
      first.endless = false →
      response.bytes = [s.hdrH, s.hdrL, 0x0A, 0x81, Config.rtcNowAddr, 0x07, b.year, b.month, b.day, b.week, b.hour,
        b.minute, b.second] ++ rest →
      ∃ (u : State) (d : DateTime), exec (.fromBCD b) s = .next (s.answer (.dateTime d) .none) ∧
        exec .getRTC s = .next (u.answer (.dateTime d) .none) ∧ SameSession s u ∧
        u.txs = s.txs ++ [s.hdrH, s.hdrL, 3, 0x81, Config.rtcNowAddr, 7] ∧ u.requests = s.requests ∧
        u.incoming = rest ++ more.flatMap Arrival.bytes

/-- R177, R144, R147, R149: a read that fails on an attached channel did so at a validated field, has sent its whole
request, and leaves the session registers as they were. -/
def Obligations.FailedReadHasSentItsRequest : Prop :=
  ∀ (i : Instr) (s t : State) (request : List Byte), s.attached = true → exec i s = .next t → t.reply = .failed →
    ((∃ a n, i = .readRegister a n ∧ request = [s.hdrH, s.hdrL, 3, 0x81, a, n]) ∨
      (∃ a n ah al, i = .readVariable a n ∧ ah.toNat = a.toNat / 256 ∧ al.toNat = a.toNat % 256 ∧
        request = [s.hdrH, s.hdrL, 4, Config.cmdVarRead, ah, al, n]) ∨
      (i = .getRTC ∧ request = [s.hdrH, s.hdrL, 3, 0x81, Config.rtcNowAddr, 7])) →
    (∃ f, t.cause = .mismatch f) ∧ t.txs = s.txs ++ request ∧ SameSession s t

/-- R151: with a header byte that is not 0, "a read operation against a silent link fails after exactly one wait with
`Mismatch(HeaderHigh)`"; the wrappers collapse it into 0 (R145, R146, R148). That the wait takes exactly the timeout is the model's choice (log
entry 8). -/
def Obligations.SilentLinkFailsAfterOneWait : Prop :=
  ∀ s : State, s.constructed = true → s.attached = true → s.hdrH ≠ 0 → s.link = [] →
    let waited (request : List Byte) : State :=
      { s with rxq := [], txs := s.txs ++ ([s.hdrH, s.hdrL] ++ request), clock := s.clock + s.timeoutMs,
               rbtCalls := s.rbtCalls + 1, rbtTimeouts := s.rbtTimeouts + 1 }
    (∀ a n : Byte, n.toNat ≤ 252 → exec (.readRegister a n) s =
      .next ((waited [3, 0x81, a, n]).answer .failed (.mismatch .headerHigh))) ∧
      (∀ (a : Word) (n : Byte), n.toNat ≤ 125 → ∃ ah al : Byte, ah.toNat = a.toNat / 256 ∧ al.toNat = a.toNat % 256 ∧
        exec (.readVariable a n) s =
          .next ((waited [4, Config.cmdVarRead, ah, al, n]).answer .failed (.mismatch .headerHigh))) ∧
      exec .getRTC s = .next ((waited [3, 0x81, Config.rtcNowAddr, 7]).answer .failed (.mismatch .headerHigh)) ∧
      (∀ a : Byte, exec (.readRegisterByte a) s =
        .next ((waited [3, 0x81, a, 1]).answer (.byte 0) (.mismatch .headerHigh))) ∧
      (∀ a : Byte, exec (.readRegisterWord a) s =
        .next ((waited [3, 0x81, a, 2]).answer (.word 0) (.mismatch .headerHigh))) ∧
      ∀ a : Word, ∃ ah al : Byte, ah.toNat = a.toNat / 256 ∧ al.toNat = a.toNat % 256 ∧
        exec (.readVariableWord a) s =
          .next ((waited [4, Config.cmdVarRead, ah, al, 1]).answer (.word 0) (.mismatch .headerHigh))

/-- R150, R22: the tests that end a poll early. No byte: nothing consumed. A byte that is not header high: it is "consumed
and lost". A wrong header low, unless the parameter `POLL_CHECK_HDR_L` is false: two bytes consumed (its ghost cause is the
model's choice, log entry 5). The causes of the first two have codes 4 and 5 (R170). -/
def Obligations.PollEndsEarly : Prop :=
  causeCode .noData = 4 ∧ causeCode .notHeader = 5 ∧ ∀ (s : State) (m : Byte), s.constructed = true → s.attached = true →
    (s.sync.rxq = [] → exec (.pollEvent m) s = .next (s.sync.answer .noEvent .noData)) ∧
      (∀ (b : Byte) (later : List Byte), s.sync.rxq = b :: later → b ≠ s.hdrH →
        exec (.pollEvent m) s = .next ({ s.sync with rxq := later }.answer .noEvent .notHeader)) ∧
      ∀ (low : Byte) (rest : List Byte), 1 ≤ s.timeoutMs → s.rxq = s.hdrH :: low :: rest → low ≠ s.hdrL →
        Config.pollCheckHdrL = false ∨
          ∃ u : State, exec (.pollEvent m) s = .next (u.answer .noEvent (.mismatch .headerLow)) ∧ OnlyReceives s u ∧
            u.incoming = rest ++ s.link.flatMap Arrival.bytes ∧ u.rbtCalls = s.rbtCalls + 1

/-- R150, R151, R172: an event frame whose header low the block accepts. Every declared word is consumed, in 6 + 2n byte reads after
the first byte; the first `maxWords` are stored; success exactly if the length byte is `4 + 2n`, else none with cause code 6
(R170). First, for every environment: the fields are what the byte reads return, a timeout being the byte 0. Second, on the
streams: the frame is queued, or its last z bytes are 0 and the link falls silent before them. A frame of 126 or more words is
never answered, because the lengths are compared as natural numbers: decision D15 of the spec (log entry 12; U6 tells of another
outcome). -/
def Obligations.PollParsesEventFrame : Prop :=
  causeCode .lengthMismatch = 6 ∧
  ∀ (s : State) (m low len cmd ah al n : Byte) (pairs : List (Byte × Byte)),
    s.constructed = true → s.attached = true → pairs.length = n.toNat →
    (low = s.hdrL ∨ Config.pollCheckHdrL = false) →
    (∀ (later : List Byte) (t : State), s.sync.rxq = s.hdrH :: later →
      byteReads (6 + 2 * n.toNat) { s.sync with rxq := later } = ([low, len, cmd, ah, al, n] ++ onWire pairs, t) →
      (len.toNat = 4 + 2 * n.toNat → ∃ ev : DeviceEvent,
        exec (.pollEvent m) s = .next (t.answer (.event ev) .none) ∧ ev.command = cmd ∧
          ev.address.toNat = 256 * ah.toNat + al.toNat ∧ ev.dataLength = n ∧
          ev.data.map BitVec.toNat = pairValues (pairs.take m.toNat)) ∧
        (len.toNat ≠ 4 + 2 * n.toNat → exec (.pollEvent m) s = .next (t.answer .noEvent .lengthMismatch))) ∧
      ∀ (received rest : List Byte) (z : Nat), 1 ≤ s.timeoutMs → s.rxq = s.hdrH :: received ++ rest →
        (z = 0 ∨ (rest = [] ∧ s.link = [])) →
        received ++ List.replicate z 0 = [low, len, cmd, ah, al, n] ++ onWire pairs →
        ∃ u : State, OnlyReceives s u ∧ u.incoming = rest ++ s.link.flatMap Arrival.bytes ∧
          u.rbtCalls = s.rbtCalls + (6 + 2 * n.toNat) ∧ u.rbtTimeouts = s.rbtTimeouts + z ∧
          (len.toNat = 4 + 2 * n.toNat → ∃ ev : DeviceEvent,
            exec (.pollEvent m) s = .next (u.answer (.event ev) .none) ∧ ev.command = cmd ∧
              ev.address.toNat = 256 * ah.toNat + al.toNat ∧ ev.dataLength = n ∧
              ev.data.map BitVec.toNat = pairValues (pairs.take m.toNat)) ∧
          (len.toNat ≠ 4 + 2 * n.toNat → exec (.pollEvent m) s = .next (u.answer .noEvent .lengthMismatch))

/-- R67, R70, R71: a frame of the device reaches the tail of `RXQ`, byte by byte; nothing else changes. That a format is an
instruction is the model's choice (log entry 9). -/
def Obligations.DeviceFramesReachQueue : Prop :=
  ∀ s : State,
    (∀ (h l addr : Byte) (data : List Byte), data.length ≤ 252 → ∃ len count : Byte,
      len.toNat = data.length + 3 ∧ count.toNat = data.length ∧
        exec (.fRRS h l addr data) s =
          .next { s with rxq := s.rxq ++ ([h, l, len, 0x81, addr, count] ++ data) }) ∧
      (∀ (h l : Byte) (addr : Word) (words : List Word), words.length ≤ 125 →
        ∃ (len ah al count : Byte) (pairs : List (Byte × Byte)), len.toNat = words.length * 2 + 4 ∧
          ah.toNat = addr.toNat / 256 ∧ al.toNat = addr.toNat % 256 ∧ count.toNat = words.length ∧
          pairValues pairs = words.map BitVec.toNat ∧
          exec (.fVRS h l addr words) s =
            .next { s with rxq := s.rxq ++ ([h, l, len, Config.cmdVarRead, ah, al, count] ++ onWire pairs) }) ∧
      ∀ (h l cmd : Byte) (addr : Word) (words : List Word), words.length ≤ 125 →
        ∃ (len ah al count : Byte) (pairs : List (Byte × Byte)), len.toNat = 4 + words.length * 2 ∧
          ah.toNat = addr.toNat / 256 ∧ al.toNat = addr.toNat % 256 ∧ count.toNat = words.length ∧
          pairValues pairs = words.map BitVec.toNat ∧
          exec (.fEV h l cmd addr words) s =
            .next { s with rxq := s.rxq ++ ([h, l, len, cmd, ah, al, count] ++ onWire pairs) }

/-- Formatter and parser agree (R67, R70, R71 against R142, R143, R150): what a frame of the device carries is what the
operation that expects it returns. That a frame of the device is an instruction, which delivers it, is the model's choice (log
entry 9). -/
def Obligations.DeliveredFramesAreParsed : Prop :=
  ∀ s t : State, s.constructed = true → s.attached = true → 1 ≤ s.timeoutMs → s.rxq = [] →
    (∀ (addr n : Byte) (data : List Byte), data.length = n.toNat →
      exec (.fRRS s.hdrH s.hdrL addr data) s = .next t →
      ∃ u, exec (.readExpectedFrameReg 0x81 addr n) t = .next u ∧ u.reply = .bytes data) ∧
      (∀ (addr : Word) (n : Byte) (words : List Word), words.length = n.toNat →
        exec (.fVRS s.hdrH s.hdrL addr words) s = .next t →
        ∃ u, exec (.readExpectedFrameVar Config.cmdVarRead addr n) t = .next u ∧ u.reply = .words words) ∧
      ∀ (cmd m : Byte) (addr : Word) (n : Byte) (words : List Word), words.length = n.toNat →
        exec (.fEV s.hdrH s.hdrL cmd addr words) s = .next t →
        ∃ u, exec (.pollEvent m) t = .next u ∧ u.reply = .event ⟨cmd, addr, n, words.take m.toNat⟩

/-! ### Session control and reset -/

/-- R160: the four session registers, a header byte that is not given at its default (0xA5, 0x5A); `TXS` starts anew (R33);
nothing else changes but the reply. That `RXQ` and `CLOCK`, which R33, U7 and U8 leave unspecified after a construction, and the
model's own fields are left alone, is the model's choice (log entry 22). -/
def Obligations.ConstructSetsSession : Prop :=
  ∀ (h l : Option Byte) (channel : Bool) (s : State), exec (.construct h l channel) s =
    .next ({ s with hdrH := h.getD 0xA5, hdrL := l.getD 0x5A, timeoutMs := 200, attached := channel, constructed := true,
                    txs := [] }.answer .nothing .none)

/-- R161: "every value is accepted, 0 included"; nothing else changes but the reply. -/
def Obligations.SetTimeoutSetsTimeout : Prop :=
  ∀ (ms : Nat) (s : State), s.constructed = true →
    exec (.setTimeout ms) s = .next ({ s with timeoutMs := ms }.answer .nothing .none)

/-- Spec 93 U23: "no operation has a meaning before `construct`": the operations on the session and the channel are refused then. The
flag that says so and the refusal are the model's choice (log entry 10), and so is that `construct`, the pure operations and the
data formats, and the device's frames, within their bounds, complete. -/
def Obligations.NothingRunsBeforeConstruct : Prop :=
  ∀ (i : Instr) (s : State), s.constructed = false →
    ((i.kind = .send ∨ i.kind = .receive ∨ i.kind = .exchange ∨ i.kind = .setTimeout) →
      exec i s = .refused .notConstructed) ∧
      ((i.kind = .construct ∨ i.kind = .codec ∨ i.kind = .delivery) → i.InBounds → Completes (exec i s))

/-- R190, R191: reset is a default construction, with the values the spec gives. The other fields of `State.reset` are the
model's choice (log entry 1) and are not stated here. -/
def Obligations.ResetIsDefaultConstruction : Prop :=
  State.reset.hdrH = 0xA5 ∧ State.reset.hdrL = 0x5A ∧ State.reset.timeoutMs = 200 ∧ State.reset.txs = [] ∧
    ∀ (s t : State) (channel : Bool), exec (.construct none none channel) s = .next t →
      t.hdrH = State.reset.hdrH ∧ t.hdrL = State.reset.hdrL ∧ t.timeoutMs = State.reset.timeoutMs ∧
        t.constructed = State.reset.constructed ∧ t.txs = State.reset.txs

/-! ### The whole machine -/

/-- R64, R174: operands that would make a frame length byte exceed 255 are refused, in every state a session is in. This is decision D14
of the spec (log entry 18). -/
def Obligations.OverlongIsRefused : Prop :=
  ∀ (i : Instr) (s : State), s.constructed = true → ¬ i.InBounds → exec i s = .refused .lengthOverflow

/-- Every instruction completes when its operands are within bounds, the block is constructed and, if it drains an attached
channel, the drain ends: no other stop exists (R11, R177 "No operation is fatal to the process"). The operations that carry a
success signal (R27) report success exactly if their cause code is 0 (R170); the others of the session and the channel carry
none. -/
def Obligations.InBoundsCompletes : Prop :=
  (∀ (i : Instr) (s : State), i.InBounds → s.constructed = true →
    (i.Drains → s.attached = true → s.drainEnds = true) → Completes (exec i s)) ∧
    ∀ (i : Instr) (s t : State), exec i s = .next t →
      (i.Signals → successSignal t.reply = some (causeCode t.cause == 0)) ∧
        (¬ i.Signals → i.kind ≠ .codec → i.kind ≠ .delivery → successSignal t.reply = none)

/-- R162, R95: a pure operation's result depends on its operands alone, and it changes nothing but the reply. -/
def Obligations.PureOperationsIgnoreState : Prop :=
  ∀ i : Instr, i.kind = .codec → ∃ r : Reply, ∀ s : State, exec i s = .next (s.answer r .none)

/-- R21 to R24, R177: no operation but construction and `setTimeout` writes a session register, and `setTimeout` writes only
`TIMEOUT_MS`; and none at all writes the map of the operations, a parameter (R7, log entry 2). -/
def Obligations.OnlyConstructionWritesSession : Prop :=
  ∀ (i : Instr) (s t : State), exec i s = .next t → t.opsel = s.opsel ∧
    (i.kind ≠ .construct →
      (i.kind ≠ .setTimeout → t.timeoutMs = s.timeoutMs) ∧ t.hdrH = s.hdrH ∧ t.hdrL = s.hdrL ∧
        t.attached = s.attached ∧ t.constructed = s.constructed)

/-- R28, R48: `TXS` is only appended to (until the next construction); bytes leave the incoming stream from its head alone,
and none is put back (but a frame of the device joins it); an operation that only receives sends nothing (R49); the clock
"never decreases"; the host's queue is left alone. -/
def Obligations.StreamsOnlyMoveForward : Prop :=
  ∀ (i : Instr) (s t : State), exec i s = .next t →
    (i.kind ≠ .construct → ∃ sent, t.txs = s.txs ++ sent) ∧
      (i.kind ≠ .delivery → ∃ taken, s.incoming = taken ++ t.incoming) ∧
      (i.kind = .receive → t.txs = s.txs) ∧ s.clock ≤ t.clock ∧ t.requests = s.requests

/-- R152, R198, R205: how many byte reads a read makes at most, and how long it can block: beyond the environment's own
turns, one timeout for each. -/
def Obligations.ReadsBlockBoundedly : Prop :=
  ∀ (i : Instr) (s t : State) (k : Nat), exec i s = .next t →
    ((∃ c a n, i = .readExpectedFrameReg c a n ∧ k = 6 + n.toNat) ∨ (∃ a n, i = .readRegister a n ∧ k = 6 + n.toNat) ∨
      (∃ c a n, i = .readExpectedFrameVar c a n ∧ k = 7 + 2 * n.toNat) ∨
      (∃ a n, i = .readVariable a n ∧ k = 7 + 2 * n.toNat) ∨ (∃ a, i = .readRegisterByte a ∧ k = 7) ∨
      (∃ a, i = .readRegisterWord a ∧ k = 8) ∨ (∃ a, i = .readVariableWord a ∧ k = 9) ∨ (i = .getRTC ∧ k = 13) ∨
      (∃ m, i = .pollEvent m ∧ k = 516) ∨ (i = .readByteWithTimeout ∧ k = 1)) →
    t.rbtCalls ≤ s.rbtCalls + k ∧
      t.clock + t.pendingTime ≤ s.clock + s.pendingTime + k * s.timeoutMs

/-- The invariant of the machine, kept by every step from every state that has it: what the host sees fits the ghost cause, and its
cause code as R170's table has it (R170, R171, R172, R179, R31); no more waits have expired than byte reads were made (R152, counted
by fields of the model's own: log entry 15); the map of the operations is a numbering of them (R7, R81; log entry 2). R170 names no
cause for a poll that ends at header low: that `noEvent` can carry Mismatch(HeaderLow) is the model's choice (log entry 5). -/
def Obligations.StepKeepsInvariant : Prop := ∀ s t : State, s.Inv → step s = .next t → t.Inv

/-- The invariant holds after reset. -/
def Obligations.ResetHasInvariant : Prop := State.reset.Inv
end

