-- ==== Sys2Proof/Laws/State.lean ====
section
/-! SUPPORT. One lemma per field per update of the state, so that no proof unfolds a record update, and what the small
predicates of Safety.lean are closed under. -/

namespace Sys2Proof.Machine

section Answer
variable (s : State) (r : Reply) (c : Cause)

@[simp] theorem answer_hdrH : (s.answer r c).hdrH = s.hdrH := rfl
@[simp] theorem answer_hdrL : (s.answer r c).hdrL = s.hdrL := rfl
@[simp] theorem answer_timeoutMs : (s.answer r c).timeoutMs = s.timeoutMs := rfl
@[simp] theorem answer_attached : (s.answer r c).attached = s.attached := rfl
@[simp] theorem answer_constructed : (s.answer r c).constructed = s.constructed := rfl
@[simp] theorem answer_rxq : (s.answer r c).rxq = s.rxq := rfl
@[simp] theorem answer_txs : (s.answer r c).txs = s.txs := rfl
@[simp] theorem answer_clock : (s.answer r c).clock = s.clock := rfl
@[simp] theorem answer_link : (s.answer r c).link = s.link := rfl
@[simp] theorem answer_opsel : (s.answer r c).opsel = s.opsel := rfl
@[simp] theorem answer_requests : (s.answer r c).requests = s.requests := rfl
@[simp] theorem answer_reply : (s.answer r c).reply = r := rfl
@[simp] theorem answer_cause : (s.answer r c).cause = c := rfl
@[simp] theorem answer_rbtCalls : (s.answer r c).rbtCalls = s.rbtCalls := rfl
@[simp] theorem answer_rbtTimeouts : (s.answer r c).rbtTimeouts = s.rbtTimeouts := rfl
@[simp] theorem answer_incoming : (s.answer r c).incoming = s.incoming := rfl
@[simp] theorem answer_pendingTime : (s.answer r c).pendingTime = s.pendingTime := rfl

/-- The host keeps the last answer only. -/
@[simp] theorem answer_answer (r' : Reply) (c' : Cause) : (s.answer r c).answer r' c' = s.answer r' c' := rfl

end Answer

section Transmit
variable (s : State) (bs : List Byte)

@[simp] theorem transmit_hdrH : (s.transmit bs).hdrH = s.hdrH := rfl
@[simp] theorem transmit_hdrL : (s.transmit bs).hdrL = s.hdrL := rfl
@[simp] theorem transmit_timeoutMs : (s.transmit bs).timeoutMs = s.timeoutMs := rfl
@[simp] theorem transmit_attached : (s.transmit bs).attached = s.attached := rfl
@[simp] theorem transmit_constructed : (s.transmit bs).constructed = s.constructed := rfl
@[simp] theorem transmit_rxq : (s.transmit bs).rxq = s.rxq := rfl
@[simp] theorem transmit_txs : (s.transmit bs).txs = s.txs ++ bs := rfl
@[simp] theorem transmit_clock : (s.transmit bs).clock = s.clock := rfl
@[simp] theorem transmit_link : (s.transmit bs).link = s.link := rfl
@[simp] theorem transmit_opsel : (s.transmit bs).opsel = s.opsel := rfl
@[simp] theorem transmit_requests : (s.transmit bs).requests = s.requests := rfl
@[simp] theorem transmit_reply : (s.transmit bs).reply = s.reply := rfl
@[simp] theorem transmit_cause : (s.transmit bs).cause = s.cause := rfl
@[simp] theorem transmit_rbtCalls : (s.transmit bs).rbtCalls = s.rbtCalls := rfl
@[simp] theorem transmit_rbtTimeouts : (s.transmit bs).rbtTimeouts = s.rbtTimeouts := rfl
@[simp] theorem transmit_incoming : (s.transmit bs).incoming = s.incoming := rfl
@[simp] theorem transmit_pendingTime : (s.transmit bs).pendingTime = s.pendingTime := rfl
@[simp] theorem transmit_drainEnds : (s.transmit bs).drainEnds = s.drainEnds := rfl

theorem transmit_transmit (cs : List Byte) : (s.transmit bs).transmit cs = s.transmit (bs ++ cs) := by
  simp [State.transmit, List.append_assoc]

end Transmit

section Sync
variable (s : State)

@[simp] theorem sync_hdrH : s.sync.hdrH = s.hdrH := by unfold State.sync; split <;> rfl
@[simp] theorem sync_hdrL : s.sync.hdrL = s.hdrL := by unfold State.sync; split <;> rfl
@[simp] theorem sync_timeoutMs : s.sync.timeoutMs = s.timeoutMs := by unfold State.sync; split <;> rfl
@[simp] theorem sync_attached : s.sync.attached = s.attached := by unfold State.sync; split <;> rfl
@[simp] theorem sync_constructed : s.sync.constructed = s.constructed := by unfold State.sync; split <;> rfl
@[simp] theorem sync_txs : s.sync.txs = s.txs := by unfold State.sync; split <;> rfl
@[simp] theorem sync_opsel : s.sync.opsel = s.opsel := by unfold State.sync; split <;> rfl
@[simp] theorem sync_requests : s.sync.requests = s.requests := by unfold State.sync; split <;> rfl
@[simp] theorem sync_reply : s.sync.reply = s.reply := by unfold State.sync; split <;> rfl
@[simp] theorem sync_cause : s.sync.cause = s.cause := by unfold State.sync; split <;> rfl
@[simp] theorem sync_rbtCalls : s.sync.rbtCalls = s.rbtCalls := by unfold State.sync; split <;> rfl
@[simp] theorem sync_rbtTimeouts : s.sync.rbtTimeouts = s.rbtTimeouts := by unfold State.sync; split <;> rfl

@[simp] theorem sync_incoming : s.sync.incoming = s.incoming := by
  unfold State.sync State.incoming
  split <;> simp_all [List.append_assoc]

theorem sync_clock_le : s.clock ≤ s.sync.clock := by
  unfold State.sync
  split <;> simp

theorem sync_time : s.sync.clock + s.sync.pendingTime = s.clock + s.pendingTime := by
  unfold State.sync State.pendingTime
  split <;> simp_all [Nat.add_assoc]

/-- With nothing more to come, the environment's turn changes nothing. -/
theorem sync_of_link_nil (h : s.link = []) : s.sync = s := by unfold State.sync; rw [h]

/-- The environment's turn, where there is one. -/
theorem sync_of_link_cons {a : Arrival} {rest : List Arrival} (h : s.link = a :: rest) :
    s.sync = { s with clock := s.clock + a.elapse, rxq := s.rxq ++ a.bytes, link := rest } := by
  unfold State.sync; rw [h]

/-- The environment's turn never takes a byte from the queue. -/
theorem sync_rxq_cons {b : Byte} {q : List Byte} (h : s.rxq = b :: q) :
    ∃ later, s.sync.rxq = b :: (q ++ later) := by
  unfold State.sync
  split
  · exact ⟨[], by simp [h]⟩
  · next a _ _ => exact ⟨a.bytes, by simp [h]⟩

end Sync

theorem SameSession.refl (s : State) : SameSession s s := ⟨rfl, rfl, rfl, rfl, rfl, rfl⟩

theorem SameSession.trans {s t u : State} (h : SameSession s t) (h' : SameSession t u) : SameSession s u :=
  ⟨h'.1.trans h.1, h'.2.1.trans h.2.1, h'.2.2.1.trans h.2.2.1, h'.2.2.2.1.trans h.2.2.2.1,
    h'.2.2.2.2.1.trans h.2.2.2.2.1, h'.2.2.2.2.2.trans h.2.2.2.2.2⟩

theorem OnlyReceives.refl (s : State) : OnlyReceives s s := ⟨SameSession.refl s, rfl, rfl, rfl, rfl⟩

theorem OnlyReceives.trans {s t u : State} (h : OnlyReceives s t) (h' : OnlyReceives t u) : OnlyReceives s u :=
  ⟨h.1.trans h'.1, h'.2.1.trans h.2.1, h'.2.2.1.trans h.2.2.1, h'.2.2.2.1.trans h.2.2.2.1,
    h'.2.2.2.2.trans h.2.2.2.2⟩

theorem OnlyReceives.sync (s : State) : OnlyReceives s s.sync := by
  simp [OnlyReceives, SameSession]

theorem Received.refl (s : State) : Received s s [] 0 0 := by
  simp [Received, OnlyReceives.refl]

/-- Byte reads in sequence. -/
theorem Received.trans {s t u : State} {xs ys : List Byte} {k k' z z' : Nat}
    (h : Received s t xs k z) (h' : Received t u ys k' z') : Received s u (xs ++ ys) (k + k') (z + z') := by
  obtain ⟨h1, h2, h3, h4, h5, h6, h7⟩ := h
  obtain ⟨g1, g2, g3, g4, g5, g6, g7⟩ := h'
  refine ⟨by rw [h1, g1, List.append_assoc], ?_, by omega, by omega, by omega, ?_, h7.trans g7⟩
  · rw [List.length_append]
    omega
  · rw [h7.1.2.2.1] at g6
    rw [Nat.add_mul]
    omega

/-- Byte reads on a state where the environment has had its turn. -/
theorem Received.of_sync {s t : State} {xs : List Byte} {k z : Nat} (h : Received s.sync t xs k z) :
    Received s t xs k z := by
  obtain ⟨h1, h2, h3, h4, h5, h6, h7⟩ := h
  exact ⟨by simpa using h1, h2, by simpa using h3, by simpa using h4, (sync_clock_le s).trans h5,
    by simpa [sync_time] using h6, (OnlyReceives.sync s).trans h7⟩

end Sys2Proof.Machine
end

