-- ==== Sys2Proof/Laws/Ops.lean ====
section
/-! SUPPORT. What each shared operation can do, said once. -/

namespace Sys2Proof.Machine

/-! ### How an operation ends -/

@[simp] theorem deliver_ok {α : Type} (neg : Reply) (f : α → Reply) (a : α) (s : State) :
    deliver neg f (.ok a s) = .next (s.answer (f a) .none) := rfl

@[simp] theorem deliver_fail {α : Type} (neg : Reply) (f : α → Reply) (c : Cause) (s : State) :
    deliver neg f (.fail c s) = .next (s.answer neg c) := rfl

@[simp] theorem deliver_refuse {α : Type} (neg : Reply) (f : α → Reply) (r : Refusal) :
    deliver neg f (.refuse r) = .refused r := rfl

@[simp] theorem deliver_stuck {α : Type} (neg : Reply) (f : α → Reply) (r : Fault) :
    deliver neg f (.stuck r) = .fault r := rfl

/-- If an attempt is delivered as a next state, it ended `ok` or in a failure. -/
theorem deliver_next {α : Type} {neg : Reply} {f : α → Reply} {x : Attempt α} {t : State}
    (h : deliver neg f x = .next t) :
    (∃ a s, x = .ok a s ∧ t = s.answer (f a) .none) ∨ (∃ c s, x = .fail c s ∧ t = s.answer neg c) := by
  cases x with
  | ok a s => exact .inl ⟨a, s, rfl, by simpa using h.symm⟩
  | fail c s => exact .inr ⟨c, s, rfl, by simpa using h.symm⟩
  | refuse r => simp at h
  | stuck r => simp at h

@[simp] theorem whenConstructed_of_constructed {s : State} (r : Result) (h : s.constructed = true) :
    whenConstructed s r = r := by simp [whenConstructed, h]

theorem whenConstructed_of_not {s : State} (r : Result) (h : s.constructed = false) :
    whenConstructed s r = .refused .notConstructed := by simp [whenConstructed, h]

theorem whenConstructed_next {s t : State} {r : Result} (h : whenConstructed s r = .next t) :
    s.constructed = true ∧ r = .next t := by
  unfold whenConstructed at h
  split at h
  · exact ⟨‹_›, h⟩
  · cases h

@[simp] theorem andThen_ok {α β : Type} (a : α) (s : State) (k : α → State → Attempt β) :
    (Attempt.ok a s).andThen k = k a s := rfl

@[simp] theorem andThen_fail {α β : Type} (c : Cause) (s : State) (k : α → State → Attempt β) :
    (Attempt.fail c s).andThen k = .fail c s := rfl

@[simp] theorem andThen_refuse {α β : Type} (r : Refusal) (k : α → State → Attempt β) :
    (Attempt.refuse r).andThen k = .refuse r := rfl

@[simp] theorem andThen_stuck {α β : Type} (f : Fault) (k : α → State → Attempt β) :
    (Attempt.stuck f).andThen k = .stuck f := rfl

/-! ### The send side -/

theorem sendRaw_of_attached {bs : List Byte} {s : State} (h : s.attached = true) :
    sendRaw bs s = .ok () (s.transmit bs) := by simp [sendRaw, h]

theorem sendRaw_of_not_attached {bs : List Byte} {s : State} (h : s.attached = false) :
    sendRaw bs s = .fail .transportNotReady s := by simp [sendRaw, h]

/-- Everything the raw writer can do. -/
theorem sendRaw_cases (bs : List Byte) (s : State) :
    (s.attached = true ∧ sendRaw bs s = .ok () (s.transmit bs)) ∨
      (s.attached = false ∧ sendRaw bs s = .fail .transportNotReady s) := by
  cases h : s.attached
  · exact .inr ⟨rfl, sendRaw_of_not_attached h⟩
  · exact .inl ⟨rfl, sendRaw_of_attached h⟩

/-! ### The byte read -/

/-- What one wait can do: a byte is taken and none of the turns before it held one, or the wait expires. -/
theorem waitByte_received (T : Nat) (s : State) (hq : s.rxq = []) (hT : s.timeoutMs = T) :
    ∀ (link : List Arrival) (e : Nat), e ≤ T →
      ∃ taken waits,
        ((waits = 0 ∧ taken = [(waitByte T e s link).byte] ∧ (waitByte T e s link).timedOut = false) ∨
          (waits = 1 ∧ taken = [] ∧ (waitByte T e s link).byte = 0 ∧ (waitByte T e s link).timedOut = true)) ∧
        Received { s with clock := s.clock + e, link := link } (waitByte T e s link).state taken 1 waits := by
  intro link
  induction link with
  | nil =>
    intro e he
    refine ⟨[], 1, .inr ⟨rfl, rfl, rfl, rfl⟩, ?_⟩
    simp [waitByte, timedOut, Received, State.incoming, State.pendingTime, OnlyReceives, SameSession, hq, hT]
    omega
  | cons a rest ih =>
    intro e he
    unfold waitByte
    split
    · refine ⟨[], 1, .inr ⟨rfl, rfl, rfl, rfl⟩, ?_⟩
      simp [timedOut, Received, State.incoming, State.pendingTime, OnlyReceives, SameSession, hq, hT]
      omega
    · next hlt =>
      split
      · next hb =>
        obtain ⟨taken, waits, hcase, hrec⟩ := ih (e + a.elapse) (by omega)
        refine ⟨taken, waits, hcase, ?_⟩
        obtain ⟨h1, h2, h3, h4, h5, h6, h7⟩ := hrec
        refine ⟨?_, h2, h3, h4, ?_, ?_, h7⟩
        · rw [← h1]
          simp [State.incoming, hb]
        · simp at h5 ⊢
          omega
        · simp [State.pendingTime] at h6 ⊢
          omega
      · next b later hb =>
        split
        · refine ⟨[b], 0, .inl ⟨rfl, rfl, rfl⟩, ?_⟩
          simp [gotByte, Received, State.incoming, State.pendingTime, OnlyReceives, SameSession, hq, hb]
          omega
        · refine ⟨[], 1, .inr ⟨rfl, rfl, rfl, rfl⟩, ?_⟩
          simp [timedOut, Received, State.incoming, State.pendingTime, OnlyReceives, SameSession, hq, hT, hb]
          omega

/-- What one `RBT()` call on an attached channel can do (R140, R152): it takes exactly one byte, the one it returns, off
the incoming stream, or it times out, takes none and returns 0. -/
theorem rbt_received (s : State) (ha : s.attached = true) :
    ∃ taken waits,
      ((waits = 0 ∧ taken = [(rbt s).byte] ∧ (rbt s).timedOut = false) ∨
        (waits = 1 ∧ taken = [] ∧ (rbt s).byte = 0 ∧ (rbt s).timedOut = true)) ∧
      Received s (rbt s).state taken 1 waits := by
  have key : ∃ taken waits,
      ((waits = 0 ∧ taken = [(receiveByte s.sync).byte] ∧ (receiveByte s.sync).timedOut = false) ∨
        (waits = 1 ∧ taken = [] ∧ (receiveByte s.sync).byte = 0 ∧ (receiveByte s.sync).timedOut = true)) ∧
      Received s.sync (receiveByte s.sync).state taken 1 waits := by
    unfold receiveByte
    split
    · next b later hq =>
      split
      · refine ⟨[b], 0, .inl ⟨rfl, rfl, rfl⟩, ?_⟩
        simp [gotByte, Received, State.incoming, State.pendingTime, OnlyReceives, SameSession, hq]
      · refine ⟨[], 1, .inr ⟨rfl, rfl, rfl, rfl⟩, ?_⟩
        simp [timedOut, Received, State.incoming, State.pendingTime, OnlyReceives, SameSession]
    · next hq => exact waitByte_received s.sync.timeoutMs s.sync hq rfl s.sync.link 0 (Nat.zero_le _)
  obtain ⟨taken, waits, hcase, hrec⟩ := key
  have hr : rbt s = receiveByte s.sync := by simp [rbt, ha]
  rw [hr]
  exact ⟨taken, waits, hcase, hrec.of_sync⟩

/-- Without a channel a byte read returns 0 at once and changes nothing (R140). -/
theorem rbt_of_not_attached {s : State} (ha : s.attached = false) : rbt s = ⟨0, false, s⟩ := by simp [rbt, ha]

/-- A byte in the queue is returned at once (R140 (a)); the environment's turn goes before it. -/
theorem rbt_of_queued {s : State} {b : Byte} {q : List Byte} (ha : s.attached = true) (hT : 1 ≤ s.timeoutMs)
    (hq : s.sync.rxq = b :: q) : rbt s = gotByte b { s.sync with rxq := q } := by
  simp [rbt, ha, receiveByte, hq, hT]

/-- A byte read changes nothing but the receive side. -/
theorem rbt_onlyReceives (s : State) : OnlyReceives s (rbt s).state := by
  cases ha : s.attached
  · rw [rbt_of_not_attached ha]
    exact OnlyReceives.refl s
  · obtain ⟨_, _, _, h⟩ := rbt_received s ha
    exact h.2.2.2.2.2.2

/-- What `n` byte reads can do. -/
theorem readBytes_received (n : Nat) (s : State) (ha : s.attached = true) :
    (readBytes n s).1.length = n ∧ ∃ taken waits, waits ≤ n ∧ Received s (readBytes n s).2 taken n waits := by
  induction n generalizing s with
  | zero => exact ⟨rfl, [], 0, Nat.le_refl 0, Received.refl s⟩
  | succ n ih =>
    obtain ⟨xs, z, _, h⟩ := rbt_received s ha
    have ha' : (rbt s).state.attached = true := h.2.2.2.2.2.2.1.2.2.2.1.trans ha
    obtain ⟨hl, ys, z', _, h'⟩ := ih (rbt s).state ha'
    have ht := h.trans h'
    refine ⟨by simp [readBytes, hl], xs ++ ys, z + z', ?_, by rwa [Nat.add_comm 1 n] at ht⟩
    have := ht.2.1
    omega

/-- What `n` word reads can do. -/
theorem readWords_received (n : Nat) (s : State) (ha : s.attached = true) :
    (readWords n s).1.length = n ∧
      ∃ taken waits, waits ≤ 2 * n ∧ Received s (readWords n s).2 taken (2 * n) waits := by
  induction n generalizing s with
  | zero => exact ⟨rfl, [], 0, Nat.le_refl _, Received.refl s⟩
  | succ n ih =>
    obtain ⟨xs, z, _, h⟩ := rbt_received s ha
    have ha' : (rbt s).state.attached = true := h.2.2.2.2.2.2.1.2.2.2.1.trans ha
    obtain ⟨ys, z', _, h'⟩ := rbt_received (rbt s).state ha'
    have ha'' : (rbt (rbt s).state).state.attached = true := h'.2.2.2.2.2.2.1.2.2.2.1.trans ha'
    obtain ⟨hl, zs, z'', _, h''⟩ := ih (rbt (rbt s).state).state ha''
    have ht := (h.trans h').trans h''
    refine ⟨by simp [readWords, hl], xs ++ ys ++ zs, z + z' + z'', ?_, ?_⟩
    · have := ht.2.1
      omega
    · rwa [show 1 + 1 + 2 * n = 2 * (n + 1) by omega] at ht

/-- What a validation can do: it matches every field, one read each, or stops at the first that differs, one of those
listed (R142, R152). -/
theorem validate_received (fields : List (Field × Nat)) (s : State) (ha : s.attached = true) :
    (∃ t taken waits, validate fields s = .ok () t ∧ Received s t taken fields.length waits) ∨
      (∃ f t taken calls waits, validate fields s = .fail (.mismatch f) t ∧ f ∈ fields.map Prod.fst ∧
        1 ≤ calls ∧ calls ≤ fields.length ∧ Received s t taken calls waits) := by
  induction fields generalizing s with
  | nil => exact .inl ⟨s, [], 0, rfl, Received.refl s⟩
  | cons p rest ih =>
    obtain ⟨f, expected⟩ := p
    obtain ⟨xs, z, _, h⟩ := rbt_received s ha
    have ha' : (rbt s).state.attached = true := h.2.2.2.2.2.2.1.2.2.2.1.trans ha
    by_cases hb : (rbt s).byte.toNat = expected
    · have hv : validate ((f, expected) :: rest) s = validate rest (rbt s).state := by simp [validate, hb]
      rw [hv]
      rcases ih (rbt s).state ha' with ⟨t, ys, z', hok, h'⟩ | ⟨g, t, ys, k, z', hfail, hmem, hk1, hk2, h'⟩
      · refine .inl ⟨t, xs ++ ys, z + z', hok, ?_⟩
        have ht := h.trans h'
        rwa [Nat.add_comm 1 rest.length] at ht
      · exact .inr ⟨g, t, xs ++ ys, 1 + k, z + z', hfail, by simp [hmem], by omega, by simp; omega, h.trans h'⟩
    · exact .inr ⟨f, (rbt s).state, xs, 1, z, by simp [validate, hb], by simp, by omega, by simp, h⟩

/-! ### Bytes that are already there -/

/-- `xs` stands at the head of the queue once the environment has had its turn. -/
def Queued (s : State) (xs : List Byte) : Prop :=
  s.attached = true ∧ 1 ≤ s.timeoutMs ∧ ∃ q, s.sync.rxq = xs ++ q

theorem Queued.of_rxq {s : State} {xs q : List Byte} (ha : s.attached = true) (hT : 1 ≤ s.timeoutMs)
    (hq : s.rxq = xs ++ q) : Queued s xs := by
  refine ⟨ha, hT, ?_⟩
  unfold State.sync
  split
  · exact ⟨q, hq⟩
  · next a _ _ => exact ⟨q ++ a.bytes, by simp [hq]⟩

/-- Reading the first of the bytes that are there. -/
theorem Queued.rbt {s : State} {b : Byte} {xs : List Byte} (h : Queued s (b :: xs)) :
    (rbt s).byte = b ∧ (rbt s).timedOut = false ∧ Queued (rbt s).state xs ∧ Received s (rbt s).state [b] 1 0 := by
  obtain ⟨ha, hT, q, hq⟩ := h
  have hr := rbt_of_queued ha hT (by simpa using hq)
  obtain ⟨taken, waits, hc, hrec⟩ := rbt_received s ha
  have hb : (Machine.rbt s).byte = b := by rw [hr]; rfl
  have ht : (Machine.rbt s).timedOut = false := by rw [hr]; rfl
  refine ⟨hb, ht, ?_, ?_⟩
  · rw [hr]
    exact Queued.of_rxq (q := q) (by simpa [gotByte] using ha) (by simpa [gotByte] using hT) rfl
  · rcases hc with ⟨rfl, rfl, _⟩ | ⟨_, _, _, h1⟩
    · rwa [hb] at hrec
    · rw [h1] at ht; cases ht

/-- Reading bytes that are there. -/
theorem Queued.readBytes {s : State} {xs ys : List Byte} (h : Queued s (xs ++ ys)) :
    (readBytes xs.length s).1 = xs ∧ Queued (readBytes xs.length s).2 ys ∧
      Received s (readBytes xs.length s).2 xs xs.length 0 := by
  induction xs generalizing s with
  | nil => exact ⟨rfl, h, Received.refl s⟩
  | cons b xs ih =>
    obtain ⟨hb, _, hQ, hR⟩ := Queued.rbt h
    obtain ⟨h1, h2, h3⟩ := ih hQ
    refine ⟨by simp [Machine.readBytes, hb, h1], h2, ?_⟩
    have := hR.trans h3
    rwa [Nat.add_comm 1] at this

theorem Queued.readWords {s : State} {ps : List (Byte × Byte)} {ys : List Byte} (h : Queued s (onWire ps ++ ys)) :
    (readWords ps.length s).1 = ps.map (fun p => packWord p.1 p.2) ∧ Queued (readWords ps.length s).2 ys ∧
      Received s (readWords ps.length s).2 (onWire ps) (2 * ps.length) 0 := by
  induction ps generalizing s with
  | nil => exact ⟨rfl, h, Received.refl s⟩
  | cons p ps ih =>
    obtain ⟨a, b⟩ := p
    obtain ⟨hb, _, hQ, hR⟩ := Queued.rbt (s := s) (b := a) (xs := b :: (onWire ps ++ ys)) (by simpa [onWire] using h)
    obtain ⟨hb', _, hQ', hR'⟩ := Queued.rbt hQ
    obtain ⟨h1, h2, h3⟩ := ih hQ'
    refine ⟨by simp [Machine.readWords, hb, hb', h1], h2, ?_⟩
    have ht := (hR.trans hR').trans h3
    rwa [show 1 + 1 + 2 * ps.length = 2 * (ps.length + 1) by omega] at ht

theorem Queued.validate_ok {s : State} {fields : List (Field × Nat)} {good ys : List Byte}
    (hg : good.map BitVec.toNat = fields.map Prod.snd) (h : Queued s (good ++ ys)) :
    ∃ t, validate fields s = .ok () t ∧ Queued t ys ∧ Received s t good good.length 0 := by
  induction fields generalizing s good with
  | nil =>
    obtain rfl : good = [] := by simpa using hg
    exact ⟨s, rfl, h, Received.refl s⟩
  | cons p fields ih =>
    cases good with
    | nil => simp at hg
    | cons g good =>
      simp only [List.map_cons, List.cons.injEq] at hg
      obtain ⟨hb, _, hQ, hR⟩ := Queued.rbt h
      obtain ⟨t, h1, h2, h3⟩ := ih hg.2 hQ
      refine ⟨t, ?_, h2, ?_⟩
      · simp [validate, hb, hg.1, h1]
      · have := hR.trans h3
        rwa [Nat.add_comm 1] at this

theorem Queued.validate_fail {s : State} {before after : List (Field × Nat)} {f : Field} {e : Nat} {good ys : List Byte} {bad : Byte}
    (hg : good.map BitVec.toNat = before.map Prod.snd) (hbad : bad.toNat ≠ e) (h : Queued s (good ++ bad :: ys)) :
    ∃ t, validate (before ++ (f, e) :: after) s = .fail (.mismatch f) t ∧ Queued t ys ∧
      Received s t (good ++ [bad]) (good.length + 1) 0 := by
  induction before generalizing s good with
  | nil =>
    obtain rfl : good = [] := by simpa using hg
    obtain ⟨hb, _, hQ, hR⟩ := Queued.rbt h
    exact ⟨_, by simp [validate, hb, hbad], hQ, hR⟩
  | cons p fields ih =>
    cases good with
    | nil => simp at hg
    | cons g good =>
      simp only [List.map_cons, List.cons.injEq] at hg
      obtain ⟨hb, _, hQ, hR⟩ := Queued.rbt h
      obtain ⟨t, h1, h2, h3⟩ := ih hg.2 hQ
      refine ⟨t, ?_, h2, ?_⟩
      · simp [validate, hb, hg.1, h1]
      · have := hR.trans h3
        rwa [Nat.add_comm 1] at this

/-! ### The drain -/

/-- Everything a drain can do (R141). -/
theorem drainInput_cases (s : State) :
    (s.attached = false ∧ drainInput s = .ok () s) ∨
      (s.attached = true ∧ s.drainEnds = true ∧ drainInput s = .ok () { s.sync with rxq := [] }) ∨
      (s.attached = true ∧ s.drainEnds = false ∧ drainInput s = .stuck .drainNeverEnds) := by
  cases ha : s.attached <;> cases hd : s.drainEnds <;> simp [drainInput, ha, hd]

end Sys2Proof.Machine
end

