-- ==== Sys2Proof/Laws/Frames.lean ====
section
/-! SUPPORT. What the frame formatter and the frame parser can do, each said once over the byte read and the raw writer. -/

namespace Sys2Proof.Machine

/-! ### The send side -/

theorem onWire_eq_pairBytes (ps : List (Byte × Byte)) : onWire ps = pairBytes ps := by
  induction ps with
  | nil => rfl
  | cons p ps ih => simpa [onWire, pairBytes] using ih

/-- What `writeRegister` sends on an attached channel (R124). -/
theorem writeRegister_of_attached {s : State} (ha : s.attached = true) (addr : Byte) {data : List Byte}
    (h : data.length ≤ 253) :
    writeRegister addr data s = .ok () (s.transmit (s.hdrH :: s.hdrL :: bodyRW addr data)) := by
  have : ¬ maxRegWriteLen < data.length := by simp [maxRegWriteLen]; omega
  simp [writeRegister, this, sendFrameHeader, sendByte, sendBuffer, sendRaw, ha, transmit_transmit, bodyRW]

/-- What `writeVariable` sends on an attached channel (R127). -/
theorem writeVariable_of_attached {s : State} (ha : s.attached = true) (addr : Word) {data : List (Byte × Byte)}
    (h : data.length ≤ 126) :
    writeVariable addr data s = .ok () (s.transmit (s.hdrH :: s.hdrL :: bodyVW addr data)) := by
  have : ¬ maxVarWriteWords < data.length := by simp [maxVarWriteWords]; omega
  simp [writeVariable, this, sendFrameHeader, sendWord, sendBuffer, sendRaw, ha, transmit_transmit, bodyVW]

/-- Everything `writeRegister` can do. -/
theorem writeRegister_cases (addr : Byte) (data : List Byte) (s : State) :
    (253 < data.length ∧ writeRegister addr data s = .refuse .lengthOverflow) ∨
      (data.length ≤ 253 ∧ s.attached = false ∧ writeRegister addr data s = .fail .transportNotReady s) ∨
      (data.length ≤ 253 ∧ s.attached = true ∧
        writeRegister addr data s = .ok () (s.transmit (s.hdrH :: s.hdrL :: bodyRW addr data))) := by
  by_cases h : data.length ≤ 253
  · cases ha : s.attached
    · have : ¬ maxRegWriteLen < data.length := by simp [maxRegWriteLen]; omega
      exact .inr (.inl ⟨h, rfl, by simp [writeRegister, this, sendFrameHeader, sendRaw_of_not_attached ha]⟩)
    · exact .inr (.inr ⟨h, rfl, writeRegister_of_attached ha addr h⟩)
  · exact .inl ⟨by omega, by rw [writeRegister, if_pos (by simp only [maxRegWriteLen]; omega)]⟩

/-- Everything `writeVariable` can do. -/
theorem writeVariable_cases (addr : Word) (data : List (Byte × Byte)) (s : State) :
    (126 < data.length ∧ writeVariable addr data s = .refuse .lengthOverflow) ∨
      (data.length ≤ 126 ∧ s.attached = false ∧ writeVariable addr data s = .fail .transportNotReady s) ∨
      (data.length ≤ 126 ∧ s.attached = true ∧
        writeVariable addr data s = .ok () (s.transmit (s.hdrH :: s.hdrL :: bodyVW addr data))) := by
  by_cases h : data.length ≤ 126
  · cases ha : s.attached
    · have : ¬ maxVarWriteWords < data.length := by simp [maxVarWriteWords]; omega
      exact .inr (.inl ⟨h, rfl, by simp [writeVariable, this, sendFrameHeader, sendRaw_of_not_attached ha]⟩)
    · exact .inr (.inr ⟨h, rfl, writeVariable_of_attached ha addr h⟩)
  · exact .inl ⟨by omega, by rw [writeVariable, if_pos (by simp only [maxVarWriteWords]; omega)]⟩

/-! ### The expected-frame reader -/

/-- Everything the register mode reader can do (R142, R152, R176). -/
theorem readExpectedReg_cases (cmd addr n : Byte) (s : State) :
    (252 < n.toNat ∧ readExpectedReg cmd addr n s = .refuse .lengthOverflow) ∨
      (n.toNat ≤ 252 ∧ s.attached = false ∧ readExpectedReg cmd addr n s = .fail .transportNotReady s) ∨
      (n.toNat ≤ 252 ∧ s.attached = true ∧ ∃ data t taken waits, data.length = n.toNat ∧
        readExpectedReg cmd addr n s = .ok data t ∧ Received s t taken (6 + n.toNat) waits) ∨
      (n.toNat ≤ 252 ∧ s.attached = true ∧ ∃ f t taken calls waits,
        readExpectedReg cmd addr n s = .fail (.mismatch f) t ∧ calls ≤ 6 ∧ Received s t taken calls waits) := by
  by_cases h : n.toNat ≤ 252
  · have hb : ¬ maxRegReadLen < n.toNat := by simp only [maxRegReadLen]; omega
    cases ha : s.attached
    · exact .inr (.inl ⟨h, rfl, by simp [readExpectedReg, hb, ha]⟩)
    · refine .inr (.inr ?_)
      rcases validate_received (expectedReg s cmd addr n) s ha with
        ⟨t, xs, z, hv, hr⟩ | ⟨f, t, xs, k, z, hv, _, _, hk, hr⟩
      · obtain ⟨hl, ys, z', _, hr'⟩ := readBytes_received n.toNat t (hr.2.2.2.2.2.2.1.2.2.2.1.trans ha)
        exact .inl ⟨h, rfl, _, _, _, _, hl, by simp [readExpectedReg, hb, ha, hv], hr.trans hr'⟩
      · exact .inr ⟨h, rfl, f, t, xs, k, z, by simp [readExpectedReg, hb, ha, hv], hk, hr⟩
  · exact .inl ⟨by omega, by rw [readExpectedReg, if_pos (by simp only [maxRegReadLen]; omega)]⟩

/-- Everything the variable mode reader can do (R143, R152, R176). -/
theorem readExpectedVar_cases (cmd : Byte) (addr : Word) (n : Byte) (s : State) :
    (125 < n.toNat ∧ readExpectedVar cmd addr n s = .refuse .lengthOverflow) ∨
      (n.toNat ≤ 125 ∧ s.attached = false ∧ readExpectedVar cmd addr n s = .fail .transportNotReady s) ∨
      (n.toNat ≤ 125 ∧ s.attached = true ∧ ∃ words t taken waits, words.length = n.toNat ∧
        readExpectedVar cmd addr n s = .ok words t ∧ Received s t taken (7 + 2 * n.toNat) waits) ∨
      (n.toNat ≤ 125 ∧ s.attached = true ∧ ∃ f t taken calls waits,
        readExpectedVar cmd addr n s = .fail (.mismatch f) t ∧ calls ≤ 7 ∧ Received s t taken calls waits) := by
  by_cases h : n.toNat ≤ 125
  · have hb : ¬ maxVarReadWords < n.toNat := by simp only [maxVarReadWords]; omega
    cases ha : s.attached
    · exact .inr (.inl ⟨h, rfl, by simp [readExpectedVar, hb, ha]⟩)
    · refine .inr (.inr ?_)
      rcases validate_received (expectedVar s cmd addr n) s ha with
        ⟨t, xs, z, hv, hr⟩ | ⟨f, t, xs, k, z, hv, _, _, hk, hr⟩
      · obtain ⟨hl, ys, z', _, hr'⟩ := readWords_received n.toNat t (hr.2.2.2.2.2.2.1.2.2.2.1.trans ha)
        exact .inl ⟨h, rfl, _, _, _, _, hl, by simp [readExpectedVar, hb, ha, hv], hr.trans hr'⟩
      · exact .inr ⟨h, rfl, f, t, xs, k, z, by simp [readExpectedVar, hb, ha, hv], hk, hr⟩
  · exact .inl ⟨by omega, by rw [readExpectedVar, if_pos (by simp only [maxVarReadWords]; omega)]⟩

/-! ### The read operations -/

/-- Everything `readRegister` can do before its response (R144): the reader runs after the drain and the request. -/
theorem readRegister_cases (addr n : Byte) (s : State) :
    (252 < n.toNat ∧ readRegister addr n s = .refuse .lengthOverflow) ∨
      (n.toNat ≤ 252 ∧ s.attached = false ∧ readRegister addr n s = .fail .transportNotReady s) ∨
      (n.toNat ≤ 252 ∧ s.attached = true ∧ s.drainEnds = false ∧ readRegister addr n s = .stuck .drainNeverEnds) ∨
      (n.toNat ≤ 252 ∧ s.attached = true ∧ s.drainEnds = true ∧ readRegister addr n s =
        readExpectedReg 0x81 addr n ({ s.sync with rxq := [] }.transmit [s.hdrH, s.hdrL, 3, 0x81, addr, n])) := by
  by_cases h : n.toNat ≤ 252
  · have hb : ¬ maxRegReadLen < n.toNat := by simp only [maxRegReadLen]; omega
    cases ha : s.attached
    · exact .inr (.inl ⟨h, rfl, by
        simp [readRegister, hb, drainInput, ha, sendFrameHeader, sendRaw_of_not_attached ha]⟩)
    · cases hd : s.drainEnds
      · exact .inr (.inr (.inl ⟨h, rfl, rfl, by simp [readRegister, hb, drainInput, ha, hd]⟩))
      · exact .inr (.inr (.inr ⟨h, rfl, rfl, by
          simp [readRegister, hb, drainInput, ha, hd, sendFrameHeader, sendByte, sendRaw, transmit_transmit,
            cmdRegRead]⟩))
  · exact .inl ⟨by omega, by rw [readRegister, if_pos (by simp only [maxRegReadLen]; omega)]⟩

/-- Everything `readVariable` can do before its response (R147). -/
theorem readVariable_cases (addr : Word) (n : Byte) (s : State) :
    (125 < n.toNat ∧ readVariable addr n s = .refuse .lengthOverflow) ∨
      (n.toNat ≤ 125 ∧ s.attached = false ∧ readVariable addr n s = .fail .transportNotReady s) ∨
      (n.toNat ≤ 125 ∧ s.attached = true ∧ s.drainEnds = false ∧ readVariable addr n s = .stuck .drainNeverEnds) ∨
      (n.toNat ≤ 125 ∧ s.attached = true ∧ s.drainEnds = true ∧ readVariable addr n s =
        readExpectedVar Config.cmdVarRead addr n ({ s.sync with rxq := [] }.transmit
          [s.hdrH, s.hdrL, 4, Config.cmdVarRead, highByte addr, lowByte addr, n])) := by
  by_cases h : n.toNat ≤ 125
  · have hb : ¬ maxVarReadWords < n.toNat := by simp only [maxVarReadWords]; omega
    cases ha : s.attached
    · exact .inr (.inl ⟨h, rfl, by
        simp [readVariable, hb, drainInput, ha, sendFrameHeader, sendRaw_of_not_attached ha]⟩)
    · cases hd : s.drainEnds
      · exact .inr (.inr (.inl ⟨h, rfl, rfl, by simp [readVariable, hb, drainInput, ha, hd]⟩))
      · exact .inr (.inr (.inr ⟨h, rfl, rfl, by
          simp [readVariable, hb, drainInput, ha, hd, sendFrameHeader, sendByte, sendWord, sendRaw,
            transmit_transmit]⟩))
  · exact .inl ⟨by omega, by rw [readVariable, if_pos (by simp only [maxVarReadWords]; omega)]⟩

/-! ### The event poll -/

/-- Everything the poll can do after its first byte, on an attached channel (R150, R152). -/
theorem pollFrame_cases (m : Byte) (s : State) (ha : s.attached = true) :
    (∃ t taken waits, pollFrame m s = .fail (.mismatch .headerLow) t ∧ Received s t taken 1 waits) ∨
      (∃ t taken calls waits, pollFrame m s = .fail .lengthMismatch t ∧ calls ≤ 516 ∧
        Received s t taken calls waits) ∨
      (∃ ev t taken calls waits, pollFrame m s = .ok ev t ∧ ev.data.length ≤ ev.dataLength.toNat ∧ calls ≤ 516 ∧
        Received s t taken calls waits) := by
  obtain ⟨x0, z0, _, h0⟩ := rbt_received s ha
  have a0 := h0.2.2.2.2.2.2.1.2.2.2.1.trans ha
  by_cases hlow : (rbt s).byte ≠ s.hdrL ∧ Config.pollCheckHdrL = true
  · exact .inl ⟨_, _, _, by simp only [pollFrame]; rw [if_pos hlow], h0⟩
  · obtain ⟨x1, z1, _, h1⟩ := rbt_received _ a0
    have a1 := h1.2.2.2.2.2.2.1.2.2.2.1.trans a0
    obtain ⟨x2, z2, _, h2⟩ := rbt_received _ a1
    have a2 := h2.2.2.2.2.2.2.1.2.2.2.1.trans a1
    obtain ⟨x3, z3, _, h3⟩ := rbt_received _ a2
    have a3 := h3.2.2.2.2.2.2.1.2.2.2.1.trans a2
    obtain ⟨x4, z4, _, h4⟩ := rbt_received _ a3
    have a4 := h4.2.2.2.2.2.2.1.2.2.2.1.trans a3
    obtain ⟨x5, z5, _, h5⟩ := rbt_received _ a4
    have a5 := h5.2.2.2.2.2.2.1.2.2.2.1.trans a4
    obtain ⟨hl, x6, z6, _, h6⟩ := readWords_received (rbt (rbt (rbt (rbt (rbt (rbt s).state).state).state).state).state).byte.toNat _ a5
    have hall := (((((h0.trans h1).trans h2).trans h3).trans h4).trans h5).trans h6
    have hn := (rbt (rbt (rbt (rbt (rbt (rbt s).state).state).state).state).state).byte.isLt
    by_cases hlen : (rbt (rbt s).state).byte.toNat =
        4 + 2 * (rbt (rbt (rbt (rbt (rbt (rbt s).state).state).state).state).state).byte.toNat
    · refine .inr (.inr ⟨_, _, _, _, _, by simp only [pollFrame]; rw [if_neg hlow, if_pos hlen], ?_, ?_, hall⟩)
      · simp [hl]
      · omega
    · exact .inr (.inl ⟨_, _, _, _, by simp only [pollFrame]; rw [if_neg hlow, if_neg hlen], by omega, hall⟩)

end Sys2Proof.Machine
end

