-- ==== Sys2Proof/Laws/Operands.lean ====
section
/-! SUPPORT. The small laws of the operand forms: words and their bytes, nibbles, the clamp, and the lists of words,
pairs and number bytes that packets are made of. -/

namespace Sys2Proof.Machine

@[simp] theorem packWord_toNat (h l : Byte) : (packWord h l).toNat = 256 * h.toNat + l.toNat := by
  have hh := h.isLt
  have hl := l.isLt
  have e1 : (h.zeroExtend 16).toNat = h.toNat := by simp; omega
  have e2 : (l.zeroExtend 16).toNat = l.toNat := by simp; omega
  have e3 : (h.toNat <<< 8) % 2 ^ 16 = h.toNat <<< 8 := by rw [Nat.shiftLeft_eq]; omega
  rw [packWord, BitVec.toNat_or, BitVec.toNat_shiftLeft, e1, e2, e3, ← Nat.shiftLeft_add_eq_or_of_lt hl, Nat.shiftLeft_eq]
  omega

@[simp] theorem highByte_toNat (w : Word) : (highByte w).toNat = w.toNat / 256 := by
  have := w.isLt
  simp [highByte, Nat.shiftRight_eq_div_pow]
  omega

@[simp] theorem lowByte_toNat (w : Word) : (lowByte w).toNat = w.toNat % 256 := by
  simp [lowByte]

/-- "`unpackWord(packWord(h, l)) == (h, l)`", the high half (R94 (d)). -/
@[simp] theorem highByte_packWord (h l : Byte) : highByte (packWord h l) = h := by
  have := l.isLt
  apply BitVec.eq_of_toNat_eq
  simp
  omega

/-- "`unpackWord(packWord(h, l)) == (h, l)`", the low half (R94 (d)). -/
@[simp] theorem lowByte_packWord (h l : Byte) : lowByte (packWord h l) = l := by
  have := l.isLt
  apply BitVec.eq_of_toNat_eq
  simp
  omega

/-- "`packWord(unpackWord(w)) == w`" (R94 (d)). -/
@[simp] theorem packWord_bytes (w : Word) : packWord (highByte w) (lowByte w) = w := by
  apply BitVec.eq_of_toNat_eq
  simp
  omega

theorem packNibbles_toNat (t o : BitVec 4) : (packNibbles t o).toNat = 16 * t.toNat + o.toNat := by
  revert t o
  decide

@[simp] theorem highNibble_packNibbles (t o : BitVec 4) : highNibble (packNibbles t o) = t := by
  revert t o
  decide

@[simp] theorem lowNibble_packNibbles (t o : BitVec 4) : lowNibble (packNibbles t o) = o := by
  revert t o
  decide

@[simp] theorem packNibbles_nibbles (b : Byte) : packNibbles (highNibble b) (lowNibble b) = b := by
  revert b
  decide

@[simp] theorem trunc8_toNat (n : Nat) : (trunc8 n).toNat = n % 256 := by simp [trunc8]

/-- The two digits of a value up to 99 (R90). -/
theorem encodeBCD_toNat {v : Byte} (h : v.toNat ≤ 99) :
    (encodeBCD v).toNat = 16 * (v.toNat / 10) + v.toNat % 10 := by
  have key : ∀ v : BitVec 8, v.toNat ≤ 99 →
      (trunc8 (((v.toNat / 10) <<< 4) ||| (v.toNat % 10))).toNat = 16 * (v.toNat / 10) + v.toNat % 10 := by decide
  rw [encodeBCD, if_pos h, key v h]

/-- Each nibble at its face value (R91). -/
theorem decodeBCD_toNat (b : Byte) : (decodeBCD b).toNat = b.toNat % 16 + 10 * (b.toNat / 16) := by
  revert b
  decide

/-- The clamp stays in its range (R100). -/
theorem clamp_range {v lo hi : Int} (h : lo ≤ hi) : lo ≤ clamp v lo hi ∧ clamp v lo hi ≤ hi := by
  unfold clamp
  split
  · omega
  · split <;> omega

/-- A byte already in the range is left alone. -/
theorem clampByte_of_range {v : Byte} {lo hi : Int} (h1 : lo ≤ v.toNat) (h2 : (v.toNat : Int) ≤ hi) :
    clampByte v lo hi = v := by
  have : clamp v.toNat lo hi = v.toNat := by
    unfold clamp
    split
    · omega
    · split <;> omega
  simp [clampByte, this]

theorem clampByte_toNat (v : Byte) {lo hi : Nat} (h : lo ≤ hi) (h' : hi ≤ 255) :
    (clampByte v lo hi).toNat = max lo (min v.toNat hi) := by
  have hc : clamp v.toNat lo hi = ((max lo (min v.toNat hi) : Nat) : Int) := by
    unfold clamp
    split
    · omega
    · split <;> omega
  have hlt : max lo (min v.toNat hi) < 256 := by omega
  rw [clampByte, hc]
  simp only [BitVec.ofInt_natCast, BitVec.toNat_ofNat]
  omega

theorem clampYear_toNat (y : Word) : (clampYear y).toNat = min (y.toNat - 2000) 99 := by
  have hc : clamp ((y.toNat : Int) - (epoch : Int)) 0 99 = ((min (y.toNat - 2000) 99 : Nat) : Int) := by
    unfold clamp epoch
    split
    · omega
    · split <;> omega
  rw [clampYear, hc]
  simp only [BitVec.ofInt_natCast, BitVec.toNat_ofNat]
  omega

@[simp] theorem pairBytes_length (ps : List (Byte × Byte)) : (pairBytes ps).length = 2 * ps.length := by
  induction ps with
  | nil => rfl
  | cons p ps ih => simp [pairBytes, ih]; omega

@[simp] theorem wordBytes_length (ws : List Word) : (wordBytes ws).length = 2 * ws.length := by
  induction ws with
  | nil => rfl
  | cons w ws ih => simp [wordBytes, ih]; omega

theorem wordBytes_eq_pairBytes (ws : List Word) :
    wordBytes ws = pairBytes (ws.map fun w => (highByte w, lowByte w)) := by
  induction ws with
  | nil => rfl
  | cons w ws ih => simp [wordBytes, pairBytes, ih]

end Sys2Proof.Machine

namespace Sys2Proof

open Machine

@[simp] theorem pairsOf_pairBytes (ps : List (Byte × Byte)) : pairsOf (pairBytes ps) = some ps := by
  induction ps with
  | nil => rfl
  | cons p ps ih => simp [pairBytes, pairsOf, ih]

@[simp] theorem wordsOf_wordBytes (ws : List Word) : wordsOf (wordBytes ws) = some ws := by
  rw [wordBytes_eq_pairBytes, wordsOf, pairsOf_pairBytes]
  simp [Function.comp_def]

/-- In a list with no repeated code, an operation that stands in it is the one its code selects. -/
theorem OpselMap.select_of_mem {m : OpselMap} (h : (m.map Prod.snd).Nodup) {op : Operation} {c : Byte}
    (hm : (op, c) ∈ m) : m.select c = some op := by
  induction m with
  | nil => cases hm
  | cons p rest ih =>
    obtain ⟨o, c'⟩ := p
    simp only [List.map_cons, List.nodup_cons] at h
    rcases List.mem_cons.mp hm with he | he
    · cases he
      simp [OpselMap.select]
    · have : c' ≠ c := fun hc => h.1 (hc ▸ List.mem_map_of_mem (f := Prod.snd) he)
      simp [OpselMap.select, this, ih h.2 he]

/-- An operation that is listed stands in the list with its code. -/
theorem OpselMap.code_mem {m : OpselMap} {op : Operation} (h : op ∈ m.map Prod.fst) : (op, m.code op) ∈ m := by
  induction m with
  | nil => cases h
  | cons p rest ih =>
    obtain ⟨o, c⟩ := p
    by_cases ho : o = op
    · simp [OpselMap.code, ho]
    · have : op ∈ rest.map Prod.fst := by simpa [Ne.symm ho] using h
      simp [OpselMap.code, ho, ih this]

/-- What a code selects stands in the list with it. -/
theorem OpselMap.mem_of_select {m : OpselMap} {op : Operation} {c : Byte} (h : m.select c = some op) : (op, c) ∈ m := by
  induction m with
  | nil => cases h
  | cons p rest ih =>
    obtain ⟨o, c'⟩ := p
    unfold OpselMap.select at h
    split at h
    · next hc =>
      cases h
      simp [hc]
    · exact List.mem_cons_of_mem _ (ih h)

/-- In a list with no repeated operation, the code of an operation is the one it stands with. -/
theorem OpselMap.code_of_mem {m : OpselMap} (h : (m.map Prod.fst).Nodup) {op : Operation} {c : Byte}
    (hm : (op, c) ∈ m) : m.code op = c := by
  induction m with
  | nil => cases hm
  | cons p rest ih =>
    obtain ⟨o, c'⟩ := p
    simp only [List.map_cons, List.nodup_cons] at h
    rcases List.mem_cons.mp hm with he | he
    · cases he
      simp [OpselMap.code]
    · have : o ≠ op := fun ho => h.1 (ho ▸ List.mem_map_of_mem (f := Prod.fst) he)
      simp [OpselMap.code, this, ih h.2 he]

/-- The code of an operation selects it (R81). -/
theorem OpselMap.Valid.select_code {m : OpselMap} (h : m.Valid) (op : Operation) : m.select (m.code op) = some op :=
  OpselMap.select_of_mem h.2.1 (OpselMap.code_mem (h.2.2 op))

/-- An operation is selected by its own code only. -/
theorem OpselMap.Valid.code_of_select {m : OpselMap} (h : m.Valid) {op : Operation} {c : Byte} (hs : m.select c = some op) :
    m.code op = c := OpselMap.code_of_mem h.1 (OpselMap.mem_of_select hs)

/-- A code that no operation has selects none. -/
theorem OpselMap.select_of_not_mem {m : OpselMap} {c : Byte} (h : c ∉ m.map Prod.snd) : m.select c = none := by
  induction m with
  | nil => rfl
  | cons p rest ih =>
    obtain ⟨o, c'⟩ := p
    simp only [List.map_cons, List.mem_cons, not_or] at h
    simp [OpselMap.select, Ne.symm h.1, ih h.2]

/-- An operation's packet decodes to the operation on its operands. -/
theorem decode_opselPacket {m : OpselMap} (h : m.Valid) (op : Operation) (ops : List Byte) :
    decode m (opselPacket m op ops) = decodeOperands op ops := by
  simp [decode, opselPacket, h.select_code]

/-- The operands of `construct` are read back, in each of its forms. -/
theorem takeConstruct_constructOperands (h l : Option Byte) (c : Bool) :
    takeConstruct (constructOperands h l c) = .ok (.construct h l c) := by
  cases h <;> cases l <;> cases c <;> rfl

/-- The default map is a numbering. -/
theorem opselDefault_valid : Machine.opselDefault.Valid := by
  refine ⟨by decide, by decide, fun op => ?_⟩
  cases op <;> decide

/-- Byte pairs are read back as they were given. -/
theorem pairBytes_of_pairsOf : ∀ (data : List Byte) (ps : List (Byte × Byte)), pairsOf data = some ps →
    pairBytes ps = data
  | [], ps, h => by cases h; rfl
  | [_], _, h => by cases h
  | a :: b :: rest, ps, h => by
    simp only [pairsOf, Option.map_eq_some_iff] at h
    obtain ⟨qs, hq, rfl⟩ := h
    simp [pairBytes, pairBytes_of_pairsOf rest qs hq]

/-- Words are read back as they were given. -/
theorem wordBytes_of_wordsOf {data : List Byte} {ws : List Word} (h : wordsOf data = some ws) :
    wordBytes ws = data := by
  simp only [wordsOf, Option.map_eq_some_iff] at h
  obtain ⟨ps, hp, rfl⟩ := h
  rw [wordBytes_eq_pairBytes, List.map_map]
  simpa [Function.comp_def] using pairBytes_of_pairsOf data ps hp

theorem natOfBytes_append_one (bs : List Byte) (b : Byte) : natOfBytes (bs ++ [b]) = natOfBytes bs * 256 + b.toNat := by
  simp [natOfBytes]

/-- A number is read back from its bytes, given room for them. -/
theorem natOfBytes_bytesOfNat (fuel n : Nat) (h : n < 256 ^ fuel) : natOfBytes (bytesOfNat fuel n) = n := by
  induction fuel generalizing n with
  | zero => simp at h; simp [h, bytesOfNat, natOfBytes]
  | succ fuel ih =>
    unfold bytesOfNat
    split
    · simp [natOfBytes, *]
    · rw [natOfBytes_append_one, ih (n / 256) (by rw [Nat.pow_succ] at h; omega)]
      simp
      omega

/-- The bytes that `encode` gives a number of milliseconds are enough. -/
theorem natOfBytes_timeout (ms : Nat) : natOfBytes (bytesOfNat (Nat.log2 ms + 1) ms) = ms := by
  apply natOfBytes_bytesOfNat
  calc ms < 2 ^ (Nat.log2 ms + 1) := Nat.lt_log2_self
    _ ≤ 256 ^ (Nat.log2 ms + 1) := Nat.pow_le_pow_left (by omega) _

end Sys2Proof
end

