-- ==== Sys2Proof/Laws/PerInstr.lean ====
section
/-! SUPPORT. The families of statements about each instruction as syntax, one lemma per constructor. -/

namespace Sys2Proof.Laws.DecodeEncode

open Machine

/-- A well-formed instruction is read back from its packet, whatever the numbering of the operations. -/
def Statement (i : Instr) : Prop := ∀ m : OpselMap, m.Valid → i.WellFormed → decode m (encode m i) = .ok i

theorem encodeBCD (value : _) : Statement (.encodeBCD value) := fun _ h _ => decode_opselPacket h _ _

theorem decodeBCD (b : _) : Statement (.decodeBCD b) := fun _ h _ => decode_opselPacket h _ _

theorem packWord (high : _) (low : _) : Statement (.packWord high low) := fun _ h _ => decode_opselPacket h _ _

theorem unpackWord (w : _) : Statement (.unpackWord w) := by
  intro m hm _
  simp [encode, decode_opselPacket hm, decodeOperands, wordOperand, takeW]

theorem dateTimeFull (year : _) (month : _) (day : _) (week : _) (hour : _) (minute : _) (second : _) : Statement (.dateTimeFull year month day week hour minute second) := by
  intro m hm _
  simp [encode, decode_opselPacket hm, decodeOperands, wordOperand, takeDateTime]

theorem dateTimeDateOnly (year : _) (month : _) (day : _) : Statement (.dateTimeDateOnly year month day) := by
  intro m hm _
  simp [encode, decode_opselPacket hm, decodeOperands, wordOperand, takeDate]

theorem setYear (dt : _) (y : _) : Statement (.setYear dt y) := by
  intro m hm _
  simp [encode, decode_opselPacket hm, decodeOperands, wordOperand, takeDtW, dateTimeBytes]

theorem setYearOffset (dt : _) (v : _) : Statement (.setYearOffset dt v) := fun _ h _ => decode_opselPacket h _ _

theorem setMonth (dt : _) (v : _) : Statement (.setMonth dt v) := fun _ h _ => decode_opselPacket h _ _

theorem setDay (dt : _) (v : _) : Statement (.setDay dt v) := fun _ h _ => decode_opselPacket h _ _

theorem setWeek (dt : _) (v : _) : Statement (.setWeek dt v) := fun _ h _ => decode_opselPacket h _ _

theorem setHour (dt : _) (v : _) : Statement (.setHour dt v) := fun _ h _ => decode_opselPacket h _ _

theorem setMinute (dt : _) (v : _) : Statement (.setMinute dt v) := fun _ h _ => decode_opselPacket h _ _

theorem setSecond (dt : _) (v : _) : Statement (.setSecond dt v) := fun _ h _ => decode_opselPacket h _ _

theorem toBCD (dt : _) : Statement (.toBCD dt) := fun _ h _ => decode_opselPacket h _ _

theorem fromBCD (buffer : _) : Statement (.fromBCD buffer) := fun _ h _ => decode_opselPacket h _ _

theorem getYear (dt : _) : Statement (.getYear dt) := fun _ h _ => decode_opselPacket h _ _

theorem getMonth (dt : _) : Statement (.getMonth dt) := fun _ h _ => decode_opselPacket h _ _

theorem getDay (dt : _) : Statement (.getDay dt) := fun _ h _ => decode_opselPacket h _ _

theorem getWeek (dt : _) : Statement (.getWeek dt) := fun _ h _ => decode_opselPacket h _ _

theorem getHour (dt : _) : Statement (.getHour dt) := fun _ h _ => decode_opselPacket h _ _

theorem getMinute (dt : _) : Statement (.getMinute dt) := fun _ h _ => decode_opselPacket h _ _

theorem getSecond (dt : _) : Statement (.getSecond dt) := fun _ h _ => decode_opselPacket h _ _

theorem sendFrameHeader (command : _) (length : _) : Statement (.sendFrameHeader command length) := fun _ h _ => decode_opselPacket h _ _

theorem sendByte (b : _) : Statement (.sendByte b) := fun _ h _ => decode_opselPacket h _ _

theorem sendWord (w : _) : Statement (.sendWord w) := by
  intro m hm _
  simp [encode, decode_opselPacket hm, decodeOperands, wordOperand, takeW]

theorem sendBuffer (bytes : _) : Statement (.sendBuffer bytes) := fun _ h _ => decode_opselPacket h _ _

theorem readByteWithTimeout : Statement (.readByteWithTimeout) := fun _ h _ => decode_opselPacket h _ _

theorem drainInput : Statement (.drainInput) := fun _ h _ => decode_opselPacket h _ _

theorem readExpectedFrameReg (expectedCommand : _) (expectedAddress : _) (expectedDataLen : _) : Statement (.readExpectedFrameReg expectedCommand expectedAddress expectedDataLen) := fun _ h _ => decode_opselPacket h _ _

theorem readExpectedFrameVar (expectedCommand : _) (expectedAddress : _) (expectedDataLen : _) : Statement (.readExpectedFrameVar expectedCommand expectedAddress expectedDataLen) := by
  intro m hm _
  simp [encode, decode_opselPacket hm, decodeOperands, wordOperand, takeBWB]

theorem writeRegister (addr : _) (data : _) : Statement (.writeRegister addr data) := fun _ h _ => decode_opselPacket h _ _

theorem writeRegisterByte (addr : _) (b : _) : Statement (.writeRegisterByte addr b) := fun _ h _ => decode_opselPacket h _ _

theorem writeRegisterWord (addr : _) (w : _) : Statement (.writeRegisterWord addr w) := by
  intro m hm _
  simp [encode, decode_opselPacket hm, decodeOperands, wordOperand, takeBW]

theorem readRegister (addr : _) (buffLen : _) : Statement (.readRegister addr buffLen) := fun _ h _ => decode_opselPacket h _ _

theorem readRegisterByte (addr : _) : Statement (.readRegisterByte addr) := fun _ h _ => decode_opselPacket h _ _

theorem readRegisterWord (addr : _) : Statement (.readRegisterWord addr) := fun _ h _ => decode_opselPacket h _ _

theorem writeVariable (addr : _) (data : _) : Statement (.writeVariable addr data) := by
  intro m hm _
  simp [encode, decode_opselPacket hm, decodeOperands, wordOperand, takeWPairs]

theorem writeVariableWord (addr : _) (w : _) : Statement (.writeVariableWord addr w) := by
  intro m hm _
  simp [encode, decode_opselPacket hm, decodeOperands, wordOperand, takeWW]

theorem readVariable (addr : _) (wordCount : _) : Statement (.readVariable addr wordCount) := by
  intro m hm _
  simp [encode, decode_opselPacket hm, decodeOperands, wordOperand, takeWB]

theorem readVariableWord (addr : _) : Statement (.readVariableWord addr) := by
  intro m hm _
  simp [encode, decode_opselPacket hm, decodeOperands, wordOperand, takeW]

theorem getRTC : Statement (.getRTC) := fun _ h _ => decode_opselPacket h _ _

theorem setRTC (value : _) : Statement (.setRTC value) := fun _ h _ => decode_opselPacket h _ _

theorem pollEvent (maxWords : _) : Statement (.pollEvent maxWords) := fun _ h _ => decode_opselPacket h _ _

theorem construct (headerHigh : _) (headerLow : _) (channel : _) : Statement (.construct headerHigh headerLow channel) := by
  intro m hm _
  simp [encode, decode_opselPacket hm, decodeOperands, takeConstruct_constructOperands]

theorem setTimeout (ms : _) : Statement (.setTimeout ms) := by
  intro m hm _
  simp [encode, decode_opselPacket hm, decodeOperands, natOfBytes_timeout]

theorem fRW (addr : _) (data : _) : Statement (.fRW addr data) := by
  intro _ _ h
  have hl : data.length ≤ 253 := by simpa [Instr.WellFormed, Instr.wellFormed] using h
  have : (2 + data.length) % 256 = 2 + data.length := by omega
  simp [encode, decode, decodeRW, bodyRW, this]

theorem fRRQ (addr : _) (count : _) : Statement (.fRRQ addr count) := by
  intro _ _ _
  simp [encode, decode, decodeRRQ, bodyRRQ]

theorem fRRS (h : _) (l : _) (addr : _) (data : _) : Statement (.fRRS h l addr data) := by
  intro _ _ h'
  have hl : data.length ≤ 252 := by simpa [Instr.WellFormed, Instr.wellFormed] using h'
  have h1 : (data.length + 3) % 256 = data.length + 3 := by omega
  have h2 : data.length % 256 = data.length := by omega
  simp [encode, decode, decodeRRS, frameRRS, h1, h2]

theorem fVW (addr : _) (data : _) : Statement (.fVW addr data) := by
  intro _ _ h
  have hl : data.length ≤ 126 := by simpa [Instr.WellFormed, Instr.wellFormed] using h
  have h1 : (3 + 2 * data.length) % 256 = 3 + 2 * data.length := by omega
  simp [encode, decode, decodeVW, bodyVW, h1]

theorem fVRQ (addr : _) (count : _) : Statement (.fVRQ addr count) := by
  intro _ _ _
  simp [encode, decode, decodeVRQ, bodyVRQ]

theorem fVRS (h : _) (l : _) (addr : _) (words : _) : Statement (.fVRS h l addr words) := by
  intro _ _ h'
  have hl : words.length ≤ 125 := by simpa [Instr.WellFormed, Instr.wellFormed] using h'
  have h1 : (4 + 2 * words.length) % 256 = 4 + 2 * words.length := by omega
  have h2 : words.length % 256 = words.length := by omega
  simp [encode, decode, decodeVRS, decodeWords, frameWords, h1, h2]

theorem fEV (h : _) (l : _) (command : _) (addr : _) (words : _) : Statement (.fEV h l command addr words) := by
  intro _ _ h'
  have hl : words.length ≤ 125 := by simpa [Instr.WellFormed, Instr.wellFormed] using h'
  have h1 : (4 + 2 * words.length) % 256 = 4 + 2 * words.length := by omega
  have h2 : words.length % 256 = words.length := by omega
  simp [encode, decode, decodeEV, decodeWords, frameWords, h1, h2]

theorem fRWRtcSet (time : _) : Statement (.fRWRtcSet time) := by
  intro _ _ _
  simp [encode, decode, decodeRtcSet, bodyRtcSet, takeDT7, dt7Bytes]

theorem bcd8 (tens : _) (ones : _) : Statement (.bcd8 tens ones) := by
  intro _ _ _
  simp [encode, decode, take1]

theorem w16 (high : _) (low : _) : Statement (.w16 high low) := fun _ _ _ => rfl

theorem dt7 (buffer : _) : Statement (.dt7 buffer) := fun _ _ _ => rfl

end Sys2Proof.Laws.DecodeEncode
end

