-- ==== Sys2Proof/Laws/Reads.lean ====
section
/-! SUPPORT. What the reader and the poll do is decided by what their byte reads return, whatever the environment does: each
is said once over `readBytes`, which is what the host would get from as many `readByteWithTimeout` operations. -/

namespace Sys2Proof.Machine

/-! ### Byte reads in sequence -/

theorem readBytes_one (s : State) : readBytes 1 s = ([(rbt s).byte], (rbt s).state) := rfl

@[simp] theorem readBytes_length (k : Nat) (s : State) : (readBytes k s).1.length = k := by
  induction k generalizing s with
  | zero => rfl
  | succ k ih => simp [readBytes, ih]

theorem readBytes_add (a b : Nat) (s : State) :
    readBytes (a + b) s =
      ((readBytes a s).1 ++ (readBytes b (readBytes a s).2).1, (readBytes b (readBytes a s).2).2) := by
  induction a generalizing s with
  | zero => simp [readBytes]
  | succ a ih => rw [show a + 1 + b = a + b + 1 by omega]; simp [readBytes, ih]

/-- Byte reads that return `xs ++ ys` return `xs`, and then `ys`. -/
theorem readBytes_append {k : Nat} {s t : State} {xs ys : List Byte} (h : readBytes k s = (xs ++ ys, t)) :
    (readBytes xs.length s).1 = xs ∧ readBytes ys.length (readBytes xs.length s).2 = (ys, t) := by
  have hk : k = xs.length + ys.length := by
    have := readBytes_length k s
    rw [h] at this
    simpa using this.symm
  rw [hk, readBytes_add] at h
  have h1 := (Prod.mk.inj h).1
  have h2 := (Prod.mk.inj h).2
  have hx := List.append_inj_left h1 (by simp)
  have hy := List.append_inj_right h1 (by simp)
  exact ⟨hx, Prod.ext hy h2⟩

/-- Byte reads that return `b :: xs` return `b`, and then `xs`. -/
theorem readBytes_cons {k : Nat} {s t : State} {b : Byte} {xs : List Byte} (h : readBytes k s = (b :: xs, t)) :
    (rbt s).byte = b ∧ readBytes xs.length (rbt s).state = (xs, t) := by
  obtain ⟨h1, h2⟩ := readBytes_append (xs := [b]) (ys := xs) h
  exact ⟨by simpa [readBytes] using h1, h2⟩

/-- Word reads are byte reads, two for each word, the high byte first. -/
theorem readWords_of_readBytes {ps : List (Byte × Byte)} {k : Nat} {s t : State} (h : readBytes k s = (onWire ps, t)) :
    readWords ps.length s = (ps.map fun p => packWord p.1 p.2, t) := by
  induction ps generalizing k s with
  | nil =>
    have hk : k = 0 := by
      have := readBytes_length k s
      rw [h] at this
      simpa [onWire] using this.symm
    subst hk
    exact Prod.ext rfl (Prod.mk.inj h).2
  | cons p ps ih =>
    obtain ⟨a, b⟩ := p
    obtain ⟨h1, h'⟩ := readBytes_cons (b := a) (xs := b :: onWire ps) (by simpa [onWire] using h)
    obtain ⟨h2, h''⟩ := readBytes_cons h'
    have := ih h''
    simp [readWords, h1, h2, this]

/-- A validation succeeds if the bytes read are the expected ones, and leaves what those reads leave (R142). -/
theorem validate_of_readBytes {fields : List (Field × Nat)} {k : Nat} {s t : State} {good : List Byte}
    (h : readBytes k s = (good, t)) (hg : good.map BitVec.toNat = fields.map Prod.snd) : validate fields s = .ok () t := by
  induction fields generalizing k s good with
  | nil =>
    obtain rfl : good = [] := by simpa using hg
    have hk : k = 0 := by
      have := readBytes_length k s
      rw [h] at this
      simpa using this.symm
    subst hk
    simp [validate, show s = t from (Prod.mk.inj h).2]
  | cons p rest ih =>
    cases good with
    | nil => simp at hg
    | cons g good =>
      simp only [List.map_cons, List.cons.injEq] at hg
      obtain ⟨hb, h'⟩ := readBytes_cons h
      simp [validate, hb, hg.1, ih h' hg.2]

/-- A validation stops at the first byte read that differs, and leaves what the reads up to it leave (R142). -/
theorem validate_fail_of_readBytes {before after : List (Field × Nat)} {f : Field} {e k : Nat} {s t : State}
    {good : List Byte} {bad : Byte} (h : readBytes k s = (good ++ [bad], t))
    (hg : good.map BitVec.toNat = before.map Prod.snd) (hbad : bad.toNat ≠ e) :
    validate (before ++ (f, e) :: after) s = .fail (.mismatch f) t := by
  induction before generalizing k s good with
  | nil =>
    obtain rfl : good = [] := by simpa using hg
    obtain ⟨hb, h'⟩ := readBytes_cons (xs := []) h
    simp [validate, hb, hbad, show (rbt s).state = t from (Prod.mk.inj h').2]
  | cons p rest ih =>
    cases good with
    | nil => simp at hg
    | cons g good =>
      simp only [List.map_cons, List.cons.injEq] at hg
      obtain ⟨hb, h'⟩ := readBytes_cons (xs := good ++ [bad]) h
      simp [validate, hb, hg.1, ih h' hg.2]

/-! ### The reader and the poll -/

/-- The register mode reader returns the data its byte reads return (R142). -/
theorem readExpectedReg_of_readBytes {cmd addr n : Byte} {k : Nat} {s t : State} {good data : List Byte}
    (ha : s.attached = true) (hn : n.toNat ≤ 252) (hd : data.length = n.toNat)
    (hg : good.map BitVec.toNat = (expectedReg s cmd addr n).map Prod.snd) (h : readBytes k s = (good ++ data, t)) :
    readExpectedReg cmd addr n s = .ok data t := by
  obtain ⟨h1, h2⟩ := readBytes_append h
  rw [hd] at h2
  have hv := validate_of_readBytes (Prod.ext h1 rfl) hg
  have : ¬ maxRegReadLen < n.toNat := by simp only [maxRegReadLen]; omega
  simp [readExpectedReg, this, ha, hv, h2]

/-- The variable mode reader returns the words its byte reads return (R143). -/
theorem readExpectedVar_of_readBytes {cmd n : Byte} {addr : Word} {k : Nat} {s t : State} {good : List Byte}
    {ps : List (Byte × Byte)} (ha : s.attached = true) (hn : n.toNat ≤ 125) (hd : ps.length = n.toNat)
    (hg : good.map BitVec.toNat = (expectedVar s cmd addr n).map Prod.snd)
    (h : readBytes k s = (good ++ onWire ps, t)) :
    readExpectedVar cmd addr n s = .ok (ps.map fun p => packWord p.1 p.2) t := by
  obtain ⟨h1, h2⟩ := readBytes_append h
  have hw := readWords_of_readBytes h2
  rw [hd] at hw
  have hv := validate_of_readBytes (Prod.ext h1 rfl) hg
  have : ¬ maxVarReadWords < n.toNat := by simp only [maxVarReadWords]; omega
  simp [readExpectedVar, this, ha, hv, hw]

/-- Everything `pollFrame` does, given what its byte reads return, for a header low that is accepted (R150). -/
theorem pollFrame_of_readBytes {m low len cmd ah al n : Byte} {k : Nat} {s t : State} {ps : List (Byte × Byte)}
    (hlow : low = s.hdrL ∨ Config.pollCheckHdrL = false) (hd : ps.length = n.toNat)
    (h : readBytes k s = ([low, len, cmd, ah, al, n] ++ onWire ps, t)) :
    pollFrame m s =
      if len.toNat = 4 + 2 * n.toNat then
        .ok ⟨cmd, packWord ah al, n, (ps.map fun p => packWord p.1 p.2).take m.toNat⟩ t
      else .fail .lengthMismatch t := by
  obtain ⟨e1, h⟩ := readBytes_cons (xs := [len, cmd, ah, al, n] ++ onWire ps) h
  obtain ⟨e2, h⟩ := readBytes_cons (xs := [cmd, ah, al, n] ++ onWire ps) h
  obtain ⟨e3, h⟩ := readBytes_cons (xs := [ah, al, n] ++ onWire ps) h
  obtain ⟨e4, h⟩ := readBytes_cons (xs := [al, n] ++ onWire ps) h
  obtain ⟨e5, h⟩ := readBytes_cons (xs := [n] ++ onWire ps) h
  obtain ⟨e6, h⟩ := readBytes_cons (xs := onWire ps) h
  have hw := readWords_of_readBytes h
  rw [hd] at hw
  have hno : ¬ (low ≠ s.hdrL ∧ Config.pollCheckHdrL = true) := by
    rcases hlow with h | h <;> simp [h]
  simp only [pollFrame, e1, if_neg hno, e2, e3, e4, e5, e6, hw]

/-! ### A queue, then silence -/

/-- On a silent link every byte read expires: as many zeros, nothing taken. -/
theorem readBytes_silent {s : State} (ha : s.attached = true) (hq : s.rxq = []) (hl : s.link = []) (z : Nat) :
    (readBytes z s).1 = List.replicate z 0 ∧ Received s (readBytes z s).2 [] z z := by
  induction z generalizing s with
  | zero => exact ⟨rfl, Received.refl s⟩
  | succ z ih =>
    have hr : rbt s = timedOut { s with clock := s.clock + s.timeoutMs, link := [] } := by
      simp [rbt, ha, sync_of_link_nil s hl, receiveByte, hq, hl, waitByte]
    have hrec : Received s (rbt s).state [] 1 1 := by
      rw [hr]
      simp [timedOut, Received, State.incoming, State.pendingTime, OnlyReceives, SameSession, hl]
    obtain ⟨h1, h2⟩ := ih (s := (rbt s).state) (by rw [hr]; exact ha) (by rw [hr]; exact hq) (by rw [hr]; rfl)
    have hb : (rbt s).byte = 0 := by rw [hr]; rfl
    refine ⟨by simp [readBytes, h1, List.replicate_succ, hb], ?_⟩
    have := hrec.trans h2
    rwa [Nat.add_comm 1] at this

/-- Reading the bytes of a queue, and then, if more are read than it holds and no more arrive, silence (R142, R151). -/
theorem readBytes_queued_silent {s : State} {received rest : List Byte} (z : Nat) (ha : s.attached = true)
    (hT : 1 ≤ s.timeoutMs) (hq : s.rxq = received ++ rest) (hz : z = 0 ∨ (rest = [] ∧ s.link = [])) :
    (readBytes (received.length + z) s).1 = received ++ List.replicate z 0 ∧
      Received s (readBytes (received.length + z) s).2 received (received.length + z) z := by
  rw [readBytes_add]
  obtain ⟨h1, -, h3⟩ := Queued.readBytes (ys := []) (by simpa using Queued.of_rxq ha hT hq)
  rcases hz with rfl | ⟨rfl, hl⟩
  · simpa [readBytes, h1] using h3
  · have hin : (readBytes received.length s).2.incoming = [] := by
      have := h3.1
      simpa [State.incoming, hq, hl] using this.symm
    have hl' : (readBytes received.length s).2.link = [] := by
      clear h1 h3 hq hin
      induction received.length generalizing s with
      | zero => exact hl
      | succ k ih =>
        have hr : (rbt s).state.link = [] := by
          rw [rbt, if_pos ha, sync_of_link_nil s hl, receiveByte]
          split
          · split
            · exact hl
            · exact hl
          · rw [hl]
            rfl
        have hR := rbt_onlyReceives s
        exact ih (hR.1.2.2.2.1.trans ha) (by rw [hR.1.2.2.1]; exact hT) hr
    have hq' : (readBytes received.length s).2.rxq = [] := by
      simpa [State.incoming, hl'] using hin
    obtain ⟨g1, g2⟩ := readBytes_silent (h3.2.2.2.2.2.2.1.2.2.2.1.trans ha) hq' hl' z
    exact ⟨by rw [h1, g1], by simpa using h3.trans g2⟩

/-! ### What the host gets from byte reads -/

theorem waitByte_answer (T : Nat) (s : State) (r : Reply) (c : Cause) (link : List Arrival) (e : Nat) :
    waitByte T e (s.answer r c) link =
      { waitByte T e s link with state := (waitByte T e s link).state.answer r c } := by
  induction link generalizing e with
  | nil => rfl
  | cons a rest ih =>
    unfold waitByte
    split
    · rfl
    · split
      · exact ih _
      · next b later _ =>
        by_cases h : e + a.elapse < T ∨ Config.rbtBoundary s.rbtCalls = true
        · rw [if_pos h, if_pos (show e + a.elapse < T ∨ Config.rbtBoundary (s.answer r c).rbtCalls = true from h)]
          rfl
        · rw [if_neg h, if_neg (show ¬ (e + a.elapse < T ∨ Config.rbtBoundary (s.answer r c).rbtCalls = true) from h)]
          rfl

/-- No byte read reads the reply or the cause. -/
theorem rbt_answer (s : State) (r : Reply) (c : Cause) :
    rbt (s.answer r c) = { rbt s with state := (rbt s).state.answer r c } := by
  have hs : (s.answer r c).sync = s.sync.answer r c := by
    unfold State.sync
    simp only [answer_link]
    split <;> rfl
  simp only [rbt, answer_attached, hs]
  split
  · unfold receiveByte
    simp only [answer_rxq]
    split
    · by_cases h : 1 ≤ s.sync.timeoutMs ∨ Config.rbtBoundary s.sync.rbtCalls = true
      · rw [if_pos h, if_pos (show 1 ≤ (s.sync.answer r c).timeoutMs ∨
          Config.rbtBoundary (s.sync.answer r c).rbtCalls = true from h)]
        rfl
      · rw [if_neg h, if_neg (show ¬ (1 ≤ (s.sync.answer r c).timeoutMs ∨
          Config.rbtBoundary (s.sync.answer r c).rbtCalls = true) from h)]
        rfl
    · exact waitByte_answer _ _ _ _ _ _
  · rfl

theorem readBytes_answer (k : Nat) (s : State) (r : Reply) (c : Cause) :
    readBytes k (s.answer r c) = ((readBytes k s).1, (readBytes k s).2.answer r c) := by
  induction k generalizing s with
  | zero => rfl
  | succ k ih => simp [readBytes, rbt_answer, ih]

/-- What the host gets from `k` byte reads is what `k` calls of `RBT()` return, and the state is theirs but for what the host
sees. -/
theorem byteReads_eq (k : Nat) (s : State) (hc : s.constructed = true) :
    (byteReads k s).1 = (readBytes k s).1 ∧
      ∀ r c, (byteReads k s).2.answer r c = (readBytes k s).2.answer r c := by
  induction k generalizing s with
  | zero => exact ⟨rfl, fun _ _ => rfl⟩
  | succ k ih =>
    have he : exec .readByteWithTimeout s =
        .next ((rbt s).state.answer (.byte (rbt s).byte) (byteReadCause s (rbt s))) := by
      simp [exec, execReadByteWithTimeout, hc]
    have hc' : ((rbt s).state.answer (.byte (rbt s).byte) (byteReadCause s (rbt s))).constructed = true :=
      (rbt_onlyReceives s).1.2.2.2.2.1.trans hc
    obtain ⟨h1, h2⟩ := ih _ hc'
    rw [readBytes_answer] at h1 h2
    refine ⟨by simp [byteReads, he, h1, readBytes], fun r c => ?_⟩
    simpa [byteReads, he, readBytes] using h2 r c

/-- Reading `byteReads` as `readBytes`. -/
theorem readBytes_of_byteReads {k : Nat} {s t : State} {bs : List Byte} (hc : s.constructed = true)
    (h : byteReads k s = (bs, t)) :
    readBytes k s = (bs, (readBytes k s).2) ∧ ∀ r c, (readBytes k s).2.answer r c = t.answer r c := by
  obtain ⟨h1, h2⟩ := byteReads_eq k s hc
  rw [h] at h1 h2
  exact ⟨Prod.ext h1.symm rfl, fun r c => (h2 r c).symm⟩

end Sys2Proof.Machine
end

