-- ==== Sys2Proof/Tests/Slice0.lean ====
section
/-! SUPPORT. Our own tests. Expected values come from the vectors (V), examples (S) and programs (P) of
spec/95_test_vectors.md, or from the encoding tables of spec/30_encoding.md. The theorems named witness_<Name> show a state
and operands that meet every hypothesis of obligation <Name>, at the bounds where there are any. -/

namespace Sys2Proof.Tests

open Sys2Proof Sys2Proof.Machine

/-! ### States -/

/-- A constructed session whose transport holds `rxq`. -/
def queued (rxq : List Byte) : State := { State.reset with rxq := rxq }

/-- A constructed session whose transport delivers `turns`. -/
def fed (turns : List Arrival) : State := { State.reset with link := turns }

/-- A session constructed without a channel. -/
def detached : State := { State.reset with attached := false, rxq := [0x42] }

/-- A device that is silent for one turn and then, after `ms` milliseconds, sends `bytes`. -/
def device (ms : Nat) (bytes : List Byte) : State := fed [⟨0, [], false⟩, ⟨ms, bytes, false⟩]

/-- V14: a variable frame that stalls for 250 ms in the low byte of its first word (one turn passes at each byte read). -/
def stalled : State :=
  fed ([⟨0, [0xA5, 0x5A, 0x08, 0x83, 0x10, 0x00, 0x02, 0x12], false⟩] ++ List.replicate 8 ⟨0, [], false⟩ ++
    [⟨250, [0xAB, 0xCD], false⟩])

/-- The date-time of the source's example S7. -/
def exampleTime : DateTime := ⟨24, 3, 15, 0, 10, 30, 0⟩

/-- The largest valid date-time with a week of at most 99 (V9). -/
def lastTime : DateTime := ⟨99, 12, 31, 99, 23, 59, 59⟩

/-- A constructed session on a channel, with a timeout that is not 0. -/
abbrev Ready (s : State) : Prop := s.constructed = true ∧ s.attached = true ∧ 1 ≤ s.timeoutMs

/-- `n` copies. -/
def many {α : Type} (n : Nat) (a : α) : List α := List.replicate n a

@[simp] theorem many_length {α : Type} (n : Nat) (a : α) : (many n a).length = n := by simp [many]

/-- What the host receives and what the session leaves on its streams. -/
def view : Result → Option (Reply × Cause × List Byte × List Byte)
  | .next t => some (t.reply, t.cause, t.txs, t.rxq)
  | _ => none

/-! ### Decoding: words written out from the spec's encodings -/

theorem test_decode_setWeek : decode opselDefault ⟨.opsel, [0x16, 24, 3, 15, 0, 10, 30, 0, 5]⟩ = .ok (.setWeek exampleTime 5) := rfl
theorem test_decode_fromBCD : decode opselDefault ⟨.opsel, [0x1B, 0xFF, 1, 2, 3, 4, 5, 6]⟩ = .ok (.fromBCD ⟨0xFF, 1, 2, 3, 4, 5, 6⟩) := rfl
theorem test_decode_sendFrameHeader : decode opselDefault ⟨.opsel, [0x30, 0x80, 0x03]⟩ = .ok (.sendFrameHeader 0x80 3) := rfl
theorem test_decode_writeRegister : decode opselDefault ⟨.opsel, [0x40, 0x01, 0xDE, 0xAD, 0xBE]⟩ = .ok (.writeRegister 1 [0xDE, 0xAD, 0xBE]) := rfl
theorem test_decode_readExpectedVar : decode opselDefault ⟨.opsel, [0x37, 0x83, 0x10, 0x00, 0x02]⟩ = .ok (.readExpectedFrameVar 0x83 0x1000 2) := rfl
theorem test_decode_writeVariable : decode opselDefault ⟨.opsel, [0x46, 0x00, 0xFF, 0x34, 0x12]⟩ = .ok (.writeVariable 0x00FF [(0x34, 0x12)]) := rfl
theorem test_decode_oddData : decode opselDefault ⟨.opsel, [0x46, 0x00, 0xFF, 0x34]⟩ = .error .oddData := rfl
theorem test_decode_readVariable : decode opselDefault ⟨.opsel, [0x48, 0x10, 0x00, 0x02]⟩ = .ok (.readVariable 0x1000 2) := rfl
theorem test_decode_getRTC : decode opselDefault ⟨.opsel, [0x4A]⟩ = .ok .getRTC := rfl
theorem test_decode_construct_absent : decode opselDefault ⟨.opsel, [0x50, 0xA5, 0x5A, 0x00]⟩ = .ok (.construct (some 0xA5) (some 0x5A) false) := rfl
/-- R160: each header byte has its default. -/
theorem test_decode_construct_high : decode opselDefault ⟨.opsel, [0x50, 0x11, 0x01]⟩ = .ok (.construct (some 0x11) none true) := rfl
theorem test_decode_construct_low : decode opselDefault ⟨.opsel, [0x50, 0x22, 0x03]⟩ = .ok (.construct none (some 0x22) true) := rfl
theorem test_decode_construct_channel : decode opselDefault ⟨.opsel, [0x50, 0x02]⟩ = .error .channelCode := rfl
/-- R7: another numbering, the same operations. -/
theorem test_decode_renumbered : decode (opselDefault.map fun p => (p.1, p.2 + 1)) ⟨.opsel, [0x02, 0x3B]⟩ = .ok (.encodeBCD 59) := rfl
theorem test_decode_operandCount : decode opselDefault ⟨.opsel, [0x43, 0x10]⟩ = .error .operandCount := rfl
theorem test_decode_fRRQ : decode opselDefault ⟨.fRRQ, [0x03, 0x81, 0x20, 0x07]⟩ = .ok (.fRRQ 0x20 7) := rfl
theorem test_decode_fRRS : decode opselDefault ⟨.fRRS, [0xA5, 0x5A, 0x05, 0x81, 0x10, 0x02, 0x12, 0x34]⟩ = .ok (.fRRS 0xA5 0x5A 0x10 [0x12, 0x34]) := rfl
theorem test_decode_fRRS_length : decode opselDefault ⟨.fRRS, [0xA5, 0x5A, 0x06, 0x81, 0x10, 0x02, 0x12, 0x34]⟩ = .error .wrongLength := rfl
theorem test_decode_fEV : decode opselDefault ⟨.fEV, [0xA5, 0x5A, 0x06, 0x83, 0x10, 0x00, 0x01, 0x00, 0x2A]⟩ = .ok (.fEV 0xA5 0x5A 0x83 0x1000 [0x002A]) := rfl
theorem test_decode_fVW : decode opselDefault ⟨.fVW, [0x05, Config.cmdVarWrite, 0x10, 0x00, 0x12, 0x34]⟩ = .ok (.fVW 0x1000 [(0x12, 0x34)]) := by
  simp [decode, decodeVW, pairsOf, packWord]
theorem test_decode_fVRQ : decode opselDefault ⟨.fVRQ, [0x04, Config.cmdVarRead, 0x10, 0x00, 0x02]⟩ = .ok (.fVRQ 0x1000 2) := by
  simp [decode, decodeVRQ, packWord]
theorem test_decode_fVRS : decode opselDefault ⟨.fVRS, [0xA5, 0x5A, 0x06, Config.cmdVarRead, 0x10, 0x00, 0x01, 0x00, 0x2A]⟩ = .ok (.fVRS 0xA5 0x5A 0x1000 [0x002A]) := by
  simp [decode, decodeVRS, decodeWords, wordsOf, pairsOf, packWord]
theorem test_decode_rtcSet : decode opselDefault ⟨.fRWRtcSet, [0x0A, 0x80, Config.rtcCommitAddr, 0x5A, 0x24, 0x03, 0x15, 0x00, 0x10, 0x30, 0x00]⟩ = .ok (.fRWRtcSet ⟨0x24, 0x03, 0x15, 0x00, 0x10, 0x30, 0x00⟩) := by
  simp [decode, decodeRtcSet, takeDT7, cmdRegWrite, rtcApplyMarker]
theorem test_decode_dt7 : decode opselDefault ⟨.dt7, [0x24, 0x03, 0x15, 0x00, 0x10, 0x30, 0x00]⟩ = .ok (.dt7 ⟨0x24, 0x03, 0x15, 0x00, 0x10, 0x30, 0x00⟩) := rfl
theorem test_decode_w16 : decode opselDefault ⟨.w16, [0x12, 0x34]⟩ = .ok (.w16 0x12 0x34) := rfl

/-- Every code of R81 selects an operation, with zero operands. -/
theorem test_every_opsel_decodes :
    [0x01, 0x02, 0x03, 0x04, 0x10, 0x11, 0x12, 0x13, 0x14, 0x15, 0x16, 0x17, 0x18, 0x19, 0x1A, 0x1B, 0x20, 0x21, 0x22, 0x23,
      0x24, 0x25, 0x26, 0x30, 0x31, 0x32, 0x33, 0x34, 0x35, 0x36, 0x37, 0x40, 0x41, 0x42, 0x43, 0x44, 0x45, 0x46, 0x47, 0x48,
      0x49, 0x4A, 0x4B, 0x4C, 0x50, 0x51].all (fun w => (decodeTableWord 8 w).isSome) = true := by decide

theorem test_tableWord_encodeBCD : decodeTableWord 16 0x3B01 = some (.encodeBCD 59) := rfl
/-- R160: `construct` with nothing given has its default header. -/
theorem test_tableWord_construct : decodeTableWord 8 0x50 = some (.construct none none false) := rfl
theorem test_tableWord_unassigned : decodeTableWord 8 0x05 = none := rfl
theorem test_withFetchWord_runs : view (step (State.reset.withFetchWord 24 0x341203)) = some (.word 0x1234, .none, [], []) := by decide

/-! ### Well-formedness: an ill-formed term for each check -/

theorem test_fRW_too_long : ¬ (Instr.fRW 0 (many 254 0)).WellFormed := by simp [Instr.wellFormed]
theorem test_fRRS_too_long : ¬ (Instr.fRRS 0 0 0 (many 253 0)).WellFormed := by simp [Instr.wellFormed]
theorem test_fVW_too_long : ¬ (Instr.fVW 0 (many 127 (0, 0))).WellFormed := by simp [Instr.wellFormed]
theorem test_fVRS_too_long : ¬ (Instr.fVRS 0 0 0 (many 126 0)).WellFormed := by simp [Instr.wellFormed]
theorem test_opsel_missing : ¬ OpselMap.Valid [(.encodeBCD, 1), (.decodeBCD, 2)] := fun h => absurd (h.2.2 .packWord) (by decide)
theorem test_opsel_repeated : ¬ OpselMap.Valid (opselDefault.map fun p => (p.1, 1)) := fun h => absurd h.2.1 (by decide)
theorem test_fEV_too_long : ¬ (Instr.fEV 0 0 0 0 (many 126 0)).WellFormed := by simp [Instr.wellFormed]

/-! ### ByteCodec and DateTimeValue -/

theorem test_encodeBCD_24 : view (exec (.encodeBCD 24) State.reset) = some (.byte 0x24, .none, [], []) := by decide
theorem test_decodeBCD_9F : view (exec (.decodeBCD 0x9F) State.reset) = some (.byte 105, .none, [], []) := by decide
theorem test_decodeBCD_FF : view (exec (.decodeBCD 0xFF) State.reset) = some (.byte 165, .none, [], []) := by decide
theorem test_packWord_FF00 : view (exec (.packWord 0xFF 0x00) State.reset) = some (.word 0xFF00, .none, [], []) := by decide
theorem test_unpackWord_00FF : view (exec (.unpackWord 0x00FF) State.reset) = some (.bytePair 0x00 0xFF, .none, [], []) := by decide
/-- V6. -/
theorem test_setYear_1999 : view (exec (.setYear lastTime 1999) State.reset) = some (.dateTime { lastTime with year := 0 }, .none, [], []) := by decide
/-- V6. -/
theorem test_setYear_65535 : view (exec (.setYear exampleTime 65535) State.reset) = some (.dateTime { exampleTime with year := 99 }, .none, [], []) := by decide
/-- S3. -/
theorem test_setMonth_0 : view (exec (.setMonth exampleTime 0) State.reset) = some (.dateTime { exampleTime with month := 1 }, .none, [], []) := by decide
/-- S3. -/
theorem test_setMonth_13 : view (exec (.setMonth exampleTime 13) State.reset) = some (.dateTime { exampleTime with month := 12 }, .none, [], []) := by decide
/-- R102. -/
theorem test_setYearOffset_130 : view (exec (.setYearOffset exampleTime 130) State.reset) = some (.dateTime { exampleTime with year := 99 }, .none, [], []) := by decide
/-- V7. -/
theorem test_setDay_32 : view (exec (.setDay exampleTime 32) State.reset) = some (.dateTime { exampleTime with day := 31 }, .none, [], []) := by decide
/-- V7: the week is not clamped. -/
theorem test_setWeek_255 : view (exec (.setWeek exampleTime 255) State.reset) = some (.dateTime { exampleTime with week := 255 }, .none, [], []) := by decide
/-- V7. -/
theorem test_setHour_24 : view (exec (.setHour exampleTime 24) State.reset) = some (.dateTime { exampleTime with hour := 23 }, .none, [], []) := by decide
/-- V7. -/
theorem test_setMinute_60 : view (exec (.setMinute exampleTime 60) State.reset) = some (.dateTime { exampleTime with minute := 59 }, .none, [], []) := by decide
/-- V7. -/
theorem test_setSecond_255 : view (exec (.setSecond exampleTime 255) State.reset) = some (.dateTime { exampleTime with second := 59 }, .none, [], []) := by decide
/-- V8. -/
theorem test_dateTimeFull_above : view (exec (.dateTimeFull 2100 13 32 255 24 60 60) State.reset) = some (.dateTime ⟨99, 12, 31, 255, 23, 59, 59⟩, .none, [], []) := by decide
/-- V8. -/
theorem test_dateTimeFull_example : view (exec (.dateTimeFull 2024 3 15 0 10 30 0) State.reset) = some (.dateTime exampleTime, .none, [], []) := by decide
/-- V9. -/
theorem test_toBCD_last : view (exec (.toBCD lastTime) State.reset) = some (.bytes [0x99, 0x12, 0x31, 0x99, 0x23, 0x59, 0x59], .none, [], []) := by decide
/-- V9. -/
theorem test_fromBCD_FF : view (exec (.fromBCD ⟨0xFF, 0xFF, 0xFF, 0xFF, 0xFF, 0xFF, 0xFF⟩) State.reset) = some (.dateTime ⟨99, 12, 31, 165, 23, 59, 59⟩, .none, [], []) := by decide
/-- V9. -/
theorem test_fromBCD_nibbles : view (exec (.fromBCD ⟨0x0A, 0x0C, 0x1F, 0xA0, 0x17, 0x3B, 0x3B⟩) State.reset) = some (.dateTime ⟨10, 12, 25, 100, 17, 41, 41⟩, .none, [], []) := by decide
theorem test_getYear : view (exec (.getYear exampleTime) State.reset) = some (.word 2024, .none, [], []) := by decide
theorem test_getHour : view (exec (.getHour exampleTime) State.reset) = some (.byte 10, .none, [], []) := by decide

/-! ### The send side -/

/-- S4. -/
theorem test_writeRegisterByte : view (exec (.writeRegisterByte 0x10 0xFF) State.reset) = some (.success, .none, [0xA5, 0x5A, 0x03, 0x80, 0x10, 0xFF], []) := by decide
/-- V11. -/
theorem test_writeRegisterWord : view (exec (.writeRegisterWord 0xFF 0x00FF) State.reset) = some (.success, .none, [0xA5, 0x5A, 0x04, 0x80, 0xFF, 0x00, 0xFF], []) := by decide
/-- V11. -/
theorem test_writeRegister_empty : view (exec (.writeRegister 0x10 []) State.reset) = some (.success, .none, [0xA5, 0x5A, 0x02, 0x80, 0x10], []) := by decide
/-- V11: the data is sent as given. -/
theorem test_writeVariable : view (exec (.writeVariable 0x00FF [(0x34, 0x12)]) State.reset) = some (.success, .none, [0xA5, 0x5A, 0x05, Config.cmdVarWrite, 0x00, 0xFF, 0x34, 0x12], []) := rfl
/-- V11, S7: the marker and the BCD bytes. -/
theorem test_setRTC : view (exec (.setRTC exampleTime) State.reset) = some (.success, .none, [0xA5, 0x5A, 0x0A, 0x80, Config.rtcCommitAddr, 0x5A, 0x24, 0x03, 0x15, 0x00, 0x10, 0x30, 0x00], []) := rfl
/-- V10: other header bytes. -/
theorem test_sendFrameHeader : view (exec (.sendFrameHeader 0x81 3) { State.reset with hdrH := 0x11, hdrL := 0x22 }) = some (.success, .none, [0x11, 0x22, 0x03, 0x81], []) := by decide
/-- V10. -/
theorem test_sendWord_detached : view (exec (.sendWord 0x1234) detached) = some (.failed, .transportNotReady, [], [0x42]) := by decide
theorem test_fRRQ_goes_out : view (exec (.fRRQ 0x20 7) State.reset) = some (.success, .none, [0xA5, 0x5A, 0x03, 0x81, 0x20, 0x07], []) := by decide

/-! ### The receive side -/

/-- V12. -/
theorem test_rbt_queued : view (exec .readByteWithTimeout (queued [0x42, 0x43])) = some (.byte 0x42, .none, [], [0x43]) := by decide
/-- V12: a byte after 50 ms. -/
theorem test_rbt_arrives : (view (exec .readByteWithTimeout (device 50 [0x7E]))) = some (.byte 0x7E, .none, [], []) := by decide
/-- V12: silence. -/
theorem test_rbt_silence : view (exec .readByteWithTimeout (queued [])) = some (.byte 0, .timeoutWithinRead, [], []) := by decide
/-- V12. -/
theorem test_rbt_detached : view (exec .readByteWithTimeout detached) = some (.byte 0, .transportNotReady, [], [0x42]) := by decide
/-- V12. -/
theorem test_drain : view (exec .drainInput (queued [1, 2, 3])) = some (.nothing, .none, [], []) := by decide
/-- V13: a wrong address. -/
theorem test_expected_address : view (exec (.readExpectedFrameReg 0x81 0x20 7) (queued [0xA5, 0x5A, 0x0A, 0x81, 0x21, 0x07, 0x24])) = some (.failed, .mismatch .address, [], [0x07, 0x24]) := by decide
/-- V13: five data bytes time out. -/
theorem test_expected_data_timeouts : view (exec (.readExpectedFrameReg 0x81 0x20 7) (queued [0xA5, 0x5A, 0x0A, 0x81, 0x20, 0x07, 0x24, 0x03])) = some (.bytes [0x24, 0x03, 0, 0, 0, 0, 0], .none, [], []) := by decide
/-- V14. -/
theorem test_expected_variable : view (exec (.readExpectedFrameVar 0x83 0x1000 2) (queued [0xA5, 0x5A, 0x08, 0x83, 0x10, 0x00, 0x02, 0x12, 0x34, 0xAB, 0xCD])) = some (.words [0x1234, 0xABCD], .none, [], []) := by decide
/-- V14: the low byte of the first word times out, the rest of the frame arrives 50 ms later. -/
theorem test_expected_variable_stall : view (exec (.readExpectedFrameVar 0x83 0x1000 2) stalled) = some (.words [0x1200, 0xABCD], .none, [], []) := by decide
/-- V13, R151: a timeout passes where 0 is expected. -/
theorem test_expected_zero_passes : view (exec (.readExpectedFrameReg 0x81 0x00 0) (queued [0xA5, 0x5A, 0x03, 0x81])) = some (.bytes [], .none, [], []) := by decide
/-- V14: the low address byte is wrong. -/
theorem test_expected_variable_low : view (exec (.readExpectedFrameVar 0x83 0x1000 2) (queued [0xA5, 0x5A, 0x08, 0x83, 0x10, 0x01, 0x02])) = some (.failed, .mismatch .addressLow, [], [0x02]) := by decide
/-- P2, step 1: the stale byte is drained, the count is wrong, the rest stays. -/
theorem test_readRegister_count : view (exec (.readRegister 0x10 2) { device 0 [0xA5, 0x5A, 0x05, 0x81, 0x10, 0x03, 0xAA, 0xBB, 0xCC] with rxq := [0xEE] }) = some (.failed, .mismatch .count, [0xA5, 0x5A, 0x03, 0x81, 0x10, 0x02], [0xAA, 0xBB, 0xCC]) := by decide
/-- V15: an early response is drained. -/
theorem test_readRegister_early : view (exec (.readRegister 0x10 2) (queued [0xA5, 0x5A, 0x05, 0x81, 0x10, 0x02, 0x12, 0x34])) = some (.failed, .mismatch .headerHigh, [0xA5, 0x5A, 0x03, 0x81, 0x10, 0x02], []) := by decide
/-- V15. -/
theorem test_readRegisterByte : view (exec (.readRegisterByte 0x10) (device 3 [0xA5, 0x5A, 0x04, 0x81, 0x10, 0x01, 0x7F])) = some (.byte 0x7F, .none, [0xA5, 0x5A, 0x03, 0x81, 0x10, 0x01], []) := by decide
/-- V15: a failure collapsed into 0. -/
theorem test_readRegisterByte_collapsed : view (exec (.readRegisterByte 0x10) (device 3 [0xA5, 0x5A, 0x04, 0x81, 0x11, 0x01, 0x7F])) = some (.byte 0, .mismatch .address, [0xA5, 0x5A, 0x03, 0x81, 0x10, 0x01], [0x01, 0x7F]) := by decide
/-- V15: the low byte times out. -/
theorem test_readRegisterWord : view (exec (.readRegisterWord 0x10) (device 3 [0xA5, 0x5A, 0x05, 0x81, 0x10, 0x02, 0x12])) = some (.word 0x1200, .none, [0xA5, 0x5A, 0x03, 0x81, 0x10, 0x02], []) := by decide
/-- V15. -/
theorem test_readVariableWord_silent : view (exec (.readVariableWord 0x1000) (queued [])) = some (.word 0, .mismatch .headerHigh, [0xA5, 0x5A, 0x04, Config.cmdVarRead, 0x10, 0x00, 0x01], []) := rfl
/-- V16 row 2. -/
theorem test_poll_notHeader : view (exec (.pollEvent 4) (queued [0x00, 0xA5, 0x5A])) = some (.noEvent, .notHeader, [], [0xA5, 0x5A]) := by decide
/-- V16 row 4: the third word is consumed and dropped. -/
theorem test_poll_oversized : view (exec (.pollEvent 2) (queued [0xA5, 0x5A, 0x0A, 0x83, 0x20, 0x00, 0x03, 0x00, 0x01, 0x00, 0x02, 0x00, 0x03, 0x77])) = some (.event ⟨0x83, 0x2000, 3, [1, 2]⟩, .none, [], [0x77]) := rfl
/-- V16 row 6. -/
theorem test_poll_length : view (exec (.pollEvent 4) (queued [0xA5, 0x5A, 0x07, 0x83, 0x10, 0x00, 0x01, 0x00, 0x2A, 0x99])) = some (.noEvent, .lengthMismatch, [], [0x99]) := rfl

/-- V16 row 8, with the header's low byte: five fields time out. -/
theorem test_poll_silence : view (exec (.pollEvent 4) (queued [0xA5, 0x5A])) = some (.noEvent, .lengthMismatch, [], []) := by decide

/-! ### The session -/

/-- V17. -/
theorem test_construct : exec (.construct (some 0x11) (some 0x22) true) (queued [7]) = .next { queued [7] with hdrH := 0x11, hdrL := 0x22, reply := .nothing } := rfl
/-- V17: `construct(channel absent)`, "defaults". -/
theorem test_construct_default : exec (.construct none none false) { State.reset with hdrH := 0x11, hdrL := 0x22, timeoutMs := 50 } = .next { State.reset with attached := false, reply := .nothing } := rfl
/-- V17. -/
theorem test_setTimeout : exec (.setTimeout 50) State.reset = .next { State.reset with timeoutMs := 50, reply := .nothing } := rfl
/-- U23. -/
theorem test_not_constructed : exec .drainInput { State.reset with constructed := false } = .refused .notConstructed := rfl
/-- V11: D14. -/
theorem test_writeRegister_refused : exec (.writeRegister 0 (many 254 0)) State.reset = .refused .lengthOverflow := by
  simp [exec, execWriteRegister, deliverSend, State.reset, Machine.writeRegister, maxRegWriteLen]
/-- U9. -/
theorem test_drain_endless : exec .drainInput (fed [⟨0, [1], true⟩]) = .fault .drainNeverEnds := rfl

/-! ### Witnesses: every hypothesis of an obligation met, at the bounds where there are any -/

theorem witness_DecodeEncodeAgree :
    opselDefault.Valid ∧ OpselMap.Valid (opselDefault.map fun p => (p.1, p.2 + 1)) ∧
      (Instr.encodeBCD 0xFF).WellFormed ∧ (Instr.fRW 0xFF (many 253 0xFF)).WellFormed ∧
      (Instr.fRRS 0 0 0 (many 252 0)).WellFormed ∧ (Instr.fVW 0xFFFF (many 126 (0, 0xFF))).WellFormed ∧
      (Instr.fVRS 0 0 0 (many 125 0)).WellFormed ∧ (Instr.fEV 0 0 0 0 (many 125 0)).WellFormed := by
  refine ⟨opselDefault_valid, ⟨by decide, by decide, fun op => by cases op <;> decide⟩, ?_⟩
  simp [Instr.WellFormed, Instr.wellFormed]

theorem witness_EncodeDecodeAgree :
    opselDefault.Valid ∧ decode opselDefault ⟨.opsel, [0x47, 0xFF, 0xFF, 0x00, 0x00]⟩ = .ok (.writeVariableWord 0xFFFF 0) ∧
      ∀ ms, Instr.writeVariableWord 0xFFFF 0 ≠ .setTimeout ms := ⟨opselDefault_valid, rfl, fun _ => nofun⟩

theorem witness_DecodedIsWellFormed : decode opselDefault ⟨.fRW, [0x02, 0x80, 0x10]⟩ = .ok (.fRW 0x10 []) := rfl

theorem witness_UnassignedCodesRefused :
    ({ State.reset with requests := [⟨.opsel, [0x52, 0x00]⟩] } : State).requests = ⟨.opsel, 0x52 :: [0x00]⟩ :: [] ∧
      (0x52 : Byte) ∉ State.reset.opsel.map Prod.snd ∧ State.reset.opsel = opselDefault ∧
      (0x52 : Byte).toNat ∉ [0x01, 0x02, 0x03, 0x04, 0x10, 0x11, 0x12, 0x13, 0x14, 0x15, 0x16, 0x17, 0x18, 0x19, 0x1A, 0x1B,
        0x20, 0x21, 0x22, 0x23, 0x24, 0x25, 0x26, 0x30, 0x31, 0x32, 0x33, 0x34, 0x35, 0x36, 0x37, 0x40, 0x41, 0x42, 0x43,
        0x44, 0x45, 0x46, 0x47, 0x48, 0x49, 0x4A, 0x4B, 0x4C, 0x50, 0x51] := by decide

theorem witness_StepRunsDecodedInstruction :
    (({ State.reset with requests := [⟨.opsel, [0x35]⟩] } : State).requests = ⟨.opsel, [0x35]⟩ :: [] ∧
      decode opselDefault ⟨.opsel, [0x35]⟩ = .ok .drainInput) ∧
      (({ State.reset with requests := [⟨.opsel, []⟩] } : State).requests = ⟨.opsel, []⟩ :: [] ∧
        decode opselDefault ⟨.opsel, []⟩ = .error .empty) ∧ State.reset.requests = [] := ⟨⟨rfl, rfl⟩, ⟨rfl, rfl⟩, rfl⟩

theorem witness_BcdCodecResults : (99 : Byte).toNat ≤ 99 ∧ 99 < (100 : Byte).toNat := by decide

theorem witness_BcdRoundTrips :
    (99 : Byte).toNat ≤ 99 ∧ (0x99 : Byte).toNat / 16 ≤ 9 ∧ (0x99 : Byte).toNat % 16 ≤ 9 := by decide

theorem witness_DateTimeRoundTrip :
    lastTime.Valid ∧ lastTime.week.toNat ≤ 99 ∧ (⟨0, 1, 1, 0, 0, 0, 0⟩ : DateTime).Valid := by decide

theorem witness_ProducedDateTimesAreValid :
    (∃ t, exec (.fromBCD ⟨0, 0, 0, 0, 0, 0, 0⟩) State.reset = .next t ∧ t.reply = .dateTime ⟨0, 1, 1, 0, 0, 0, 0⟩) ∧
      (∃ t d, exec .getRTC (device 0 [0xA5, 0x5A, 0x0A, 0x81, Config.rtcNowAddr, 0x07, 0x24, 0, 0, 0, 0, 0, 0]) = .next t ∧
        t.reply = .dateTime d) ∧
      lastTime.Valid ∧
      ∃ t, exec (.setMonth lastTime 0) State.reset = .next t ∧ t.reply = .dateTime { lastTime with month := 1 } := by
  refine ⟨⟨_, rfl, rfl⟩, ?_, by decide, ⟨_, rfl, rfl⟩⟩
  simp [exec, execGetRTC, device, fed, State.reset, hdrHInit, hdrLInit, timeoutInit, Machine.readRegister, maxRegReadLen,
    Machine.drainInput, State.drainEnds, State.sync, Machine.sendFrameHeader, Machine.sendByte, sendRaw, State.transmit,
    readExpectedReg, expectedReg, cmdRegRead, validate, rbt, receiveByte, gotByte, readBytes, dt7OfBytes]

theorem witness_PrimitiveWritersAppend :
    State.reset.constructed = true ∧ State.reset.attached = true ∧ detached.constructed = true ∧ detached.attached = false :=
  ⟨rfl, rfl, rfl, rfl⟩

theorem witness_WriteWrappersEmitFrames :
    State.reset.constructed = true ∧ State.reset.attached = true ∧ detached.constructed = true ∧ detached.attached = false :=
  ⟨rfl, rfl, rfl, rfl⟩

theorem witness_SetRtcEmitsFrame :
    State.reset.constructed = true ∧ State.reset.attached = true ∧ detached.constructed = true ∧ detached.attached = false :=
  ⟨rfl, rfl, rfl, rfl⟩

theorem witness_BlockFramesGoOut :
    State.reset.constructed = true ∧ State.reset.attached = true ∧ (many 253 (0 : Byte)).length ≤ 253 ∧
      (many 126 ((0, 0) : Byte × Byte)).length ≤ 126 := by
  simp [State.reset]

theorem witness_WritesEmitFrames :
    State.reset.constructed = true ∧ State.reset.attached = true ∧ (many 253 (0xFF : Byte)).length ≤ 253 ∧
      (many 126 ((0, 0xFF) : Byte × Byte)).length ≤ 126 := by
  simp [State.reset]

theorem witness_SendOnlyAppends :
    (Instr.fVW 0xFFFF (many 126 (0, 0))).kind = .send ∧
      (Instr.fVW 0xFFFF (many 126 (0, 0))).InBounds ∧ State.reset.constructed = true ∧
      State.reset.attached = true := by
  simp [Instr.kind, Instr.InBounds, State.reset]

theorem witness_SentFramesAreWellFormed :
    (Instr.fRRQ 0x20 0xFF).kind = .send ∧ (∀ c l, Instr.fRRQ 0x20 0xFF ≠ .sendFrameHeader c l) ∧
      (∀ b, Instr.fRRQ 0x20 0xFF ≠ .sendByte b) ∧ (∀ w, Instr.fRRQ 0x20 0xFF ≠ .sendWord w) ∧
      (∀ bs, Instr.fRRQ 0x20 0xFF ≠ .sendBuffer bs) ∧ State.reset.attached = true ∧
      ∃ t, exec (.fRRQ 0x20 0xFF) State.reset = .next t :=
  ⟨rfl, fun _ _ => nofun, fun _ => nofun, fun _ => nofun, fun _ => nofun, rfl, _, rfl⟩

theorem witness_WritesAreTheirFormats :
    exec (.toBCD exampleTime) State.reset =
      .next (State.reset.answer (.bytes (dt7Bytes ⟨0x24, 0x03, 0x15, 0x00, 0x10, 0x30, 0x00⟩)) .none) := rfl

theorem witness_QueuedByteIsReturned :
    Ready { queued [0] with timeoutMs := 1 } ∧
      ({ queued [0] with timeoutMs := 1 } : State).sync.rxq = 0 :: [] := by decide

theorem witness_ArrivingByteIsReturned :
    (device 199 [0x7E]).constructed = true ∧ (device 199 [0x7E]).attached = true ∧ (device 199 [0x7E]).sync.rxq = [] ∧
      firstArrival 0 (device 199 [0x7E]).sync.link = some 199 ∧ firstByte (device 199 [0x7E]).sync.link = some 0x7E ∧
      199 < (device 199 [0x7E]).timeoutMs := by decide

theorem witness_SilentWaitReturnsZero :
    Ready (device 201 [0x7E]) ∧ (device 201 [0x7E]).sync.rxq = [] ∧
      ∀ d, firstArrival 0 (device 201 [0x7E]).sync.link = some d → (device 201 [0x7E]).timeoutMs < d := by
  refine ⟨by decide, rfl, fun d h => ?_⟩
  have : firstArrival 0 (device 201 [0x7E]).sync.link = some 201 := rfl
  rw [this] at h
  cases h
  decide

theorem witness_BoundaryByteIsEither :
    (Ready (device 200 [0x7E]) ∧ (device 200 [0x7E]).sync.rxq = [] ∧
      firstArrival 0 (device 200 [0x7E]).sync.link = some (device 200 [0x7E]).timeoutMs ∧
      firstByte (device 200 [0x7E]).sync.link = some 0x7E) ∧
      (queued [0x42]).constructed = true ∧ (queued [0x42]).attached = true ∧
      ({ queued [0x42] with timeoutMs := 0 } : State).timeoutMs = 0 ∧
      ({ queued [0x42] with timeoutMs := 0 } : State).sync.rxq.head? = some 0x42 := by decide

theorem witness_WithoutChannelNothingHappens :
    (Instr.writeRegister 0xFF (many 253 0)).kind = .send ∧ (Instr.writeRegister 0xFF (many 253 0)).InBounds ∧
      detached.constructed = true ∧ detached.attached = false ∧ (252 : Byte).toNat ≤ 252 ∧ (125 : Byte).toNat ≤ 125 := by
  simp [Instr.kind, Instr.InBounds, detached, State.reset]

theorem witness_CollapsingWrappersFollowTheirReads :
    (∃ u, exec (.readRegister 0x10 1) (device 0 [0xA5, 0x5A, 4, 0x81, 0x10, 1, 0x7F]) = .next u ∧ u.reply = .bytes [0x7F]) ∧
      (∃ u, exec (.readRegister 0x10 2) (device 0 [0xA5, 0x5A, 5, 0x81, 0x10, 2, 0x12, 0x34]) = .next u ∧
        u.reply = .bytes [0x12, 0x34]) ∧
      (∃ u, exec (.readRegister 0x10 1) (queued []) = .next u ∧ u.reply = .failed) ∧
      (∃ u, exec (.readVariable 0x10 1) (queued []) = .next u ∧ u.reply = .failed) ∧
      ∃ u, exec (.readVariable 0x10 1) (device 0 [0xA5, 0x5A, 6, Config.cmdVarRead, 0, 0x10, 1, 0x12, 0x34]) = .next u ∧
        u.reply = .words [0x1234] := by
  refine ⟨⟨_, rfl, rfl⟩, ⟨_, rfl, rfl⟩, ⟨_, rfl, rfl⟩, ⟨_, rfl, rfl⟩, ?_⟩
  simp [exec, execReadVariable, device, fed, State.reset, hdrHInit, hdrLInit, timeoutInit, Machine.readVariable,
    maxVarReadWords, Machine.drainInput, State.drainEnds, State.sync, Machine.sendFrameHeader, Machine.sendByte,
    Machine.sendWord, sendRaw, State.transmit, readExpectedVar, expectedVar, validate, rbt, receiveByte, gotByte,
    readWords, packWord]

theorem witness_DrainEmptiesQueue :
    (queued [1, 2, 3]).constructed = true ∧ (queued [1, 2, 3]).attached = true ∧ (queued [1, 2, 3]).drainEnds = true := by
  decide

theorem witness_EndlessDrainIsStuck :
    (Instr.readVariable 0 125).Drains ∧ (Instr.readVariable 0 125).InBounds ∧ Instr.drainInput.Drains ∧
      (fed [⟨0, [1], true⟩]).constructed = true ∧ (fed [⟨0, [1], true⟩]).attached = true ∧
      (fed [⟨0, [1], true⟩]).drainEnds = false := by
  simp [Instr.Drains, Instr.kind, Instr.InBounds, fed, State.reset, State.drainEnds]

theorem witness_ExpectedRegisterFrameIsRead :
    (Ready (queued ([0xA5, 0x5A, 255, 0x81, 0x20, 252] ++ many 252 7 ++ [9])) ∧ (252 : Byte).toNat ≤ 252 ∧
      (many 252 (7 : Byte)).length = (252 : Byte).toNat ∧ (255 : Byte).toNat = (252 : Byte).toNat + 3 ∧
      (queued ([0xA5, 0x5A, 255, 0x81, 0x20, 252] ++ many 252 7 ++ [9])).rxq =
        ([State.reset.hdrH, State.reset.hdrL, 255, 0x81, 0x20, 252] ++ many 252 7) ++ [9]) ∧
      (queued [0xA5, 0x5A, 3, 0x81]).rxq = [0xA5, 0x5A, 3, 0x81] ++ [] ∧ (queued [0xA5, 0x5A, 3, 0x81]).link = [] ∧
      [0xA5, 0x5A, 3, 0x81] ++ List.replicate 2 (0 : Byte) = [State.reset.hdrH, State.reset.hdrL, 3, 0x81, 0, 0] ++ [] ∧
      ∃ t, byteReads 6 (queued [0xA5, 0x5A, 3, 0x81]) = ([State.reset.hdrH, State.reset.hdrL, 3, 0x81, 0, 0] ++ [], t) := by
  refine ⟨?_, rfl, rfl, rfl, _, rfl⟩
  simp [Ready, queued, State.reset, hdrHInit, hdrLInit, timeoutInit]

theorem witness_ExpectedVariableFrameIsRead :
    (Ready (queued [0xA5, 0x5A, 8, 0x83, 0x10, 0, 2, 0x12, 0x34, 0xAB, 0xCD]) ∧ (2 : Byte).toNat ≤ 125 ∧
      ([(0x12, 0x34), (0xAB, 0xCD)] : List (Byte × Byte)).length = (2 : Byte).toNat ∧
      (8 : Byte).toNat = 2 * (2 : Byte).toNat + 4 ∧ (0x10 : Byte).toNat = (0x1000 : Word).toNat / 256 ∧
      (0x00 : Byte).toNat = (0x1000 : Word).toNat % 256 ∧
      ([0x1234, 0xABCD] : List Word).map BitVec.toNat = pairValues [(0x12, 0x34), (0xAB, 0xCD)] ∧
      (queued [0xA5, 0x5A, 8, 0x83, 0x10, 0, 2, 0x12, 0x34, 0xAB, 0xCD]).rxq =
        ([State.reset.hdrH, State.reset.hdrL, 8, 0x83, 0x10, 0, 2] ++ onWire [(0x12, 0x34), (0xAB, 0xCD)]) ++ []) ∧
      [0xA5, 0x5A, 8, 0x83, 0x10, 0, 2, 0x12] ++ List.replicate 3 (0 : Byte) =
        [State.reset.hdrH, State.reset.hdrL, 8, 0x83, 0x10, 0, 2] ++ onWire [(0x12, 0), (0, 0)] ∧
      (queued [0xA5, 0x5A, 8, 0x83, 0x10, 0, 2, 0x12]).link = [] ∧
      ∃ t, byteReads 11 stalled =
        ([State.reset.hdrH, State.reset.hdrL, 8, 0x83, 0x10, 0, 2] ++ onWire [(0x12, 0), (0xAB, 0xCD)], t) := by
  refine ⟨by decide, rfl, rfl, _, rfl⟩

theorem witness_RegisterMismatchStopsAtField :
    Ready (queued [0xA5, 0x5A, 3, 0x81, 0x20, 1]) ∧ (0 : Byte).toNat ≤ 252 ∧
    ([(.headerHigh, 0xA5), (.headerLow, 0x5A), (.length, 0 + 3), (.command, 0x81), (.address, 0x20), (.count, 0)] :
        List (Field × Nat)) =
      [(.headerHigh, 0xA5), (.headerLow, 0x5A), (.length, 3), (.command, 0x81), (.address, 0x20)] ++ (.count, 0) :: [] ∧
      ([0xA5, 0x5A, 3, 0x81, 0x20] : List Byte).map BitVec.toNat = [0xA5, 0x5A, 3, 0x81, 0x20] ∧ (1 : Byte).toNat ≠ 0 ∧
      (queued [0xA5, 0x5A, 3, 0x81, 0x20, 1]).rxq = [0xA5, 0x5A, 3, 0x81, 0x20] ++ 1 :: [] ∧
      (byteReads 6 (queued [0xA5, 0x5A, 3, 0x81, 0x20, 1])).1 = [0xA5, 0x5A, 3, 0x81, 0x20] ++ [1] := by
  decide

theorem witness_VariableMismatchStopsAtField :
    Ready (queued [0xA5, 0x5A, 254, 0x83, 0x11, 0]) ∧ (125 : Byte).toNat ≤ 125 ∧
    ([(.headerHigh, 0xA5), (.headerLow, 0x5A), (.length, 2 * 125 + 4), (.command, 0x83),
        (.addressHigh, (0x1000 : Word).toNat / 256), (.addressLow, (0x1000 : Word).toNat % 256), (.count, 125)] :
        List (Field × Nat)) =
      [(.headerHigh, 0xA5), (.headerLow, 0x5A), (.length, 254), (.command, 0x83)] ++
        (.addressHigh, 0x10) :: [(.addressLow, 0), (.count, 125)] ∧
      ([0xA5, 0x5A, 254, 0x83] : List Byte).map BitVec.toNat = [0xA5, 0x5A, 254, 0x83] ∧ (0x11 : Byte).toNat ≠ 0x10 ∧
      (queued [0xA5, 0x5A, 254, 0x83, 0x11, 0]).rxq = [0xA5, 0x5A, 254, 0x83] ++ 0x11 :: [0] ∧
      (byteReads 5 (queued [0xA5, 0x5A, 254, 0x83])).1 = [0xA5, 0x5A, 254, 0x83] ++ [0] ∧
      (0 : Byte).toNat ≠ (0x1000 : Word).toNat / 256 := by
  decide

theorem witness_ReadRegisterReturnsResponse :
    (device 9 ([0xA5, 0x5A, 255, 0x81, 0x20, 252] ++ many 252 7 ++ [1])).link =
        ⟨0, [], false⟩ :: ⟨9, [0xA5, 0x5A, 255, 0x81, 0x20, 252] ++ many 252 7 ++ [1], false⟩ :: [] ∧
      (252 : Byte).toNat ≤ 252 ∧ (many 252 (7 : Byte)).length = (252 : Byte).toNat ∧
      (255 : Byte).toNat = (252 : Byte).toNat + 3 ∧
      Ready (device 9 ([0xA5, 0x5A, 255, 0x81, 0x20, 252] ++ many 252 7 ++ [1])) := by
  simp [Ready, device, fed, State.reset, timeoutInit]

theorem witness_ReadWrappersReturnResponse :
    Ready (device 9 [0xA5, 0x5A, 0x04, 0x81, 0x10, 0x01, 0x7F]) ∧ (⟨0, [], false⟩ : Arrival).endless = false ∧
      (device 9 [0xA5, 0x5A, 0x06, Config.cmdVarRead, 0x10, 0x00, 0x01, 0x00, 0x2A]).link =
        ⟨0, [], false⟩ :: ⟨9, [State.reset.hdrH, State.reset.hdrL, 0x06, Config.cmdVarRead, 0x10, 0x00, 0x01, 0x00, 0x2A] ++ [],
          false⟩ :: [] ∧
      (device 9 [0xA5, 0x5A, 0x04, 0x81, 0x10, 0x01, 0x7F]).link =
        ⟨0, [], false⟩ :: ⟨9, [State.reset.hdrH, State.reset.hdrL, 0x04, 0x81, 0x10, 0x01, 0x7F] ++ [], false⟩ :: [] ∧
      (device 9 [0xA5, 0x5A, 0x05, 0x81, 0x10, 0x02, 0x12, 0x34]).link =
        ⟨0, [], false⟩ :: ⟨9, [State.reset.hdrH, State.reset.hdrL, 0x05, 0x81, 0x10, 0x02, 0x12, 0x34] ++ [], false⟩ :: [] ∧
      (0x10 : Byte).toNat = (0x1000 : Word).toNat / 256 ∧ (0x00 : Byte).toNat = (0x1000 : Word).toNat % 256 :=
  ⟨by decide, rfl, rfl, rfl, rfl, rfl, rfl⟩

theorem witness_ReadVariableReturnsResponse :
    Ready (device 9 [0xA5, 0x5A, 0x06, Config.cmdVarRead, 0x10, 0x00, 0x01, 0x00, 0x2A]) ∧
      (device 9 [0xA5, 0x5A, 0x06, Config.cmdVarRead, 0x10, 0x00, 0x01, 0x00, 0x2A]).link =
        ⟨0, [], false⟩ ::
          ⟨9, [State.reset.hdrH, State.reset.hdrL, 0x06, Config.cmdVarRead, 0x10, 0x00, 1] ++ onWire [(0x00, 0x2A)] ++ [], false⟩ ::
          [] ∧
      (1 : Byte).toNat ≤ 125 ∧ ([(0x00, 0x2A)] : List (Byte × Byte)).length = (1 : Byte).toNat ∧
      (6 : Byte).toNat = 2 * (1 : Byte).toNat + 4 ∧
      ([0x002A] : List Word).map BitVec.toNat = pairValues [(0x00, 0x2A)] := by
  refine ⟨⟨rfl, rfl, by decide⟩, rfl, ?_⟩
  decide

theorem witness_GetRtcReturnsResponse :
    (∃ u, exec (.readRegister Config.rtcNowAddr 7) (queued []) = .next u ∧ u.reply = .failed) ∧
    (∃ u, exec (.readRegister Config.rtcNowAddr 7)
      (device 9 [0xA5, 0x5A, 0x0A, 0x81, Config.rtcNowAddr, 0x07, 0x24, 0x03, 0x15, 0x00, 0x10, 0x30, 0x00]) = .next u ∧
        u.reply = .bytes [0x24, 0x03, 0x15, 0x00, 0x10, 0x30, 0x00]) ∧
    Ready (device 9 [0xA5, 0x5A, 0x0A, 0x81, Config.rtcNowAddr, 0x07, 0x24, 0x03, 0x15, 0x00, 0x10, 0x30, 0x00]) ∧
      (device 9 [0xA5, 0x5A, 0x0A, 0x81, Config.rtcNowAddr, 0x07, 0x24, 0x03, 0x15, 0x00, 0x10, 0x30, 0x00]).link =
      ⟨0, [], false⟩ ::
        ⟨9, [State.reset.hdrH, State.reset.hdrL, 0x0A, 0x81, Config.rtcNowAddr, 0x07, 0x24, 0x03, 0x15, 0x00, 0x10, 0x30,
          0x00] ++ [], false⟩ :: [] := by
  refine ⟨⟨_, rfl, rfl⟩, ?_, ⟨rfl, rfl, by decide⟩, rfl⟩
  simp [exec, execReadRegister, device, fed, State.reset, hdrHInit, hdrLInit, timeoutInit, Machine.readRegister,
    maxRegReadLen, Machine.drainInput, State.drainEnds, State.sync, Machine.sendFrameHeader, Machine.sendByte, sendRaw,
    State.transmit, readExpectedReg, expectedReg, cmdRegRead, validate, rbt, receiveByte, gotByte, readBytes]

theorem witness_FailedReadHasSentItsRequest :
    (queued []).attached = true ∧ ∃ t, exec (.readRegister 0x10 252) (queued []) = .next t ∧ t.reply = .failed :=
  ⟨rfl, _, rfl, rfl⟩

theorem witness_SilentLinkFailsAfterOneWait :
    (queued [0x11, 0x22]).constructed = true ∧ (queued [0x11, 0x22]).attached = true ∧ (queued [0x11, 0x22]).hdrH ≠ 0 ∧
      (queued [0x11, 0x22]).link = [] ∧ (252 : Byte).toNat ≤ 252 ∧ (125 : Byte).toNat ≤ 125 := by decide

theorem witness_PollEndsEarly :
    Ready (queued []) ∧ Ready (queued [0xA5, 0]) ∧ (queued []).sync.rxq = [] ∧ ((queued [0, 0xA5]).sync.rxq = 0 :: [0xA5] ∧ (0 : Byte) ≠ (queued [0, 0xA5]).hdrH) ∧
      (queued [0xA5, 0]).rxq = (queued [0xA5, 0]).hdrH :: 0 :: [] ∧
      (0 : Byte) ≠ (queued [0xA5, 0]).hdrL := by decide

theorem witness_PollParsesEventFrame :
    (Ready (queued [0xA5, 0x5A, 6, 0x83, 0x10, 0, 1, 0, 0x2A, 0x77]) ∧
      (queued [0xA5, 0x5A, 6, 0x83, 0x10, 0, 1, 0, 0x2A, 0x77]).rxq =
        State.reset.hdrH :: ([0x5A, 6, 0x83, 0x10, 0, 1] ++ onWire [(0, 0x2A)]) ++ [0x77] ∧
      ([(0, 0x2A)] : List (Byte × Byte)).length = (1 : Byte).toNat ∧ (0x5A : Byte) = State.reset.hdrL ∧
      (6 : Byte).toNat = 4 + 2 * (1 : Byte).toNat ∧ (7 : Byte).toNat ≠ 4 + 2 * (1 : Byte).toNat) ∧
      ((many 125 ((0, 1) : Byte × Byte)).length = (125 : Byte).toNat ∧ (254 : Byte).toNat = 4 + 2 * (125 : Byte).toNat) ∧
      ((many 126 ((0, 1) : Byte × Byte)).length = (126 : Byte).toNat ∧ (0 : Byte).toNat ≠ 4 + 2 * (126 : Byte).toNat ∧
        (queued ([0xA5, 0x5A, 0, 0x83, 0x10, 0, 126] ++ onWire (many 126 (0, 1)))).rxq =
          State.reset.hdrH :: ([0x5A, 0, 0x83, 0x10, 0, 126] ++ onWire (many 126 (0, 1))) ++ []) ∧
      ((queued [0xA5, 0x5A]).rxq = State.reset.hdrH :: [0x5A] ++ [] ∧ (queued [0xA5, 0x5A]).link = [] ∧
        [0x5A] ++ List.replicate 5 (0 : Byte) = [0x5A, 0, 0, 0, 0, 0] ++ onWire [] ∧
        (queued [0xA5, 0x5A]).sync.rxq = State.reset.hdrH :: [0x5A] ∧
        (byteReads 6 { (queued [0xA5, 0x5A]).sync with rxq := [0x5A] }).1 = [0x5A, 0, 0, 0, 0, 0] ++ onWire []) := by
  refine ⟨by decide, by simp, ?_, by decide⟩
  simp [queued, State.reset, hdrHInit]

theorem witness_DeviceFramesReachQueue :
    (many 252 (0 : Byte)).length ≤ 252 ∧ (many 125 (0 : Word)).length ≤ 125 := by simp

theorem witness_DeliveredFramesAreParsed :
    (queued []).constructed = true ∧ (queued []).attached = true ∧ 1 ≤ (queued []).timeoutMs ∧ (queued []).rxq = [] ∧
      ([0x7F] : List Byte).length = (1 : Byte).toNat ∧
      (∃ t, exec (.fRRS (queued []).hdrH (queued []).hdrL 0x10 [0x7F]) (queued []) = .next t) ∧
      (∃ t, exec (.fVRS (queued []).hdrH (queued []).hdrL 0x1000 [0x7F]) (queued []) = .next t) ∧
      ∃ t, exec (.fEV (queued []).hdrH (queued []).hdrL 0x83 0x1000 [0x7F]) (queued []) = .next t :=
  ⟨rfl, rfl, by decide, rfl, rfl, ⟨_, rfl⟩, ⟨_, rfl⟩, ⟨_, rfl⟩⟩

theorem witness_SetTimeoutSetsTimeout : State.reset.constructed = true := rfl

theorem witness_NothingRunsBeforeConstruct :
    ({ State.reset with constructed := false } : State).constructed = false ∧ (Instr.sendByte 0).kind = .send ∧
      Instr.drainInput.kind = .receive ∧ Instr.getRTC.kind = .exchange ∧ (Instr.setTimeout 0).kind = .setTimeout ∧
      (Instr.construct none none true).kind = .construct ∧ (Instr.encodeBCD 0).kind = .codec ∧
      (Instr.fRRS 0 0 0 (many 252 0)).kind = .delivery ∧ (Instr.fRRS 0 0 0 (many 252 0)).InBounds := by
  simp [Instr.kind, Instr.InBounds]

theorem witness_ResetIsDefaultConstruction : ∃ t, exec (.construct none none false) State.reset = .next t := ⟨_, rfl⟩

theorem witness_OverlongIsRefused :
    State.reset.constructed = true ∧ ¬ (Instr.readRegister 0x10 253).InBounds ∧ ¬ (Instr.readVariable 0x1000 126).InBounds ∧
      ¬ (Instr.writeRegister 0 (many 254 0)).InBounds ∧
      ¬ (Instr.writeVariable 0 (many 127 (0, 0))).InBounds := by
  simp [State.reset, Instr.InBounds]

theorem witness_InBoundsCompletes :
    ((Instr.readRegister 0x10 252).InBounds ∧ State.reset.constructed = true ∧
      ((Instr.readRegister 0x10 252).Drains → State.reset.attached = true → State.reset.drainEnds = true)) ∧
      ((∃ t, exec (.readRegister 0x10 252) State.reset = .next t) ∧ (Instr.readRegister 0x10 252).Signals) ∧
      (∃ t, exec (.readRegisterByte 0x10) State.reset = .next t) ∧ ¬ (Instr.readRegisterByte 0x10).Signals ∧
      (Instr.readRegisterByte 0x10).kind ≠ .codec ∧ (Instr.readRegisterByte 0x10).kind ≠ .delivery := by
  refine ⟨by simp [Instr.InBounds, State.reset, State.drainEnds], ⟨⟨_, rfl⟩, ?_⟩, ⟨_, rfl⟩, ?_⟩ <;>
    simp [Instr.Signals, Instr.kind]

theorem witness_PureOperationsIgnoreState : (Instr.encodeBCD 0xFF).kind = .codec ∧ (Instr.bcd8 15 15).kind = .codec := by
  decide

theorem witness_OnlyConstructionWritesSession :
    (∃ t, exec (.setTimeout 0) State.reset = .next t) ∧ (Instr.setTimeout 0).kind ≠ .construct ∧
      (∃ t, exec .drainInput State.reset = .next t) ∧ Instr.drainInput.kind ≠ .setTimeout :=
  ⟨⟨_, rfl⟩, by decide, ⟨_, rfl⟩, by decide⟩

theorem witness_StreamsOnlyMoveForward :
    (∃ t, exec .readByteWithTimeout (queued [1]) = .next t) ∧ Instr.readByteWithTimeout.kind ≠ .construct ∧
      Instr.readByteWithTimeout.kind ≠ .delivery ∧ Instr.readByteWithTimeout.kind = .receive :=
  ⟨⟨_, rfl⟩, by decide, by decide, rfl⟩

theorem witness_ReadsBlockBoundedly :
    (∃ t, exec (.readExpectedFrameReg 0x81 0 0) (queued [0xA5, 0x5A, 3, 0x81]) = .next t) ∧
      ∃ c a n, Instr.readExpectedFrameReg 0x81 0 0 = .readExpectedFrameReg c a n ∧ 6 = 6 + n.toNat :=
  ⟨⟨_, rfl⟩, _, _, _, rfl, rfl⟩

theorem witness_StepKeepsInvariant :
    ({ State.reset with requests := [⟨.opsel, [0x34]⟩] } : State).Inv ∧
      ∃ t, step { State.reset with requests := [⟨.opsel, [0x34]⟩] } = .next t :=
  ⟨⟨rfl, nofun, Nat.le_refl 0, opselDefault_valid⟩, _, rfl⟩

end Sys2Proof.Tests
end

section
/-! SUPPORT. How a step reads its request, and that every instruction is read back from its packet. -/

namespace Sys2Proof.Laws

open Sys2Proof Sys2Proof.Machine

/-- The round trip of each instruction, from its own lemma. -/
theorem decode_encode (i : Instr) : DecodeEncode.Statement i :=
  match i with
  | .encodeBCD value => DecodeEncode.encodeBCD value
  | .decodeBCD b => DecodeEncode.decodeBCD b
  | .packWord high low => DecodeEncode.packWord high low
  | .unpackWord w => DecodeEncode.unpackWord w
  | .dateTimeFull year month day week hour minute second => DecodeEncode.dateTimeFull year month day week hour minute second
  | .dateTimeDateOnly year month day => DecodeEncode.dateTimeDateOnly year month day
  | .setYear dt y => DecodeEncode.setYear dt y
  | .setYearOffset dt v => DecodeEncode.setYearOffset dt v
  | .setMonth dt v => DecodeEncode.setMonth dt v
  | .setDay dt v => DecodeEncode.setDay dt v
  | .setWeek dt v => DecodeEncode.setWeek dt v
  | .setHour dt v => DecodeEncode.setHour dt v
  | .setMinute dt v => DecodeEncode.setMinute dt v
  | .setSecond dt v => DecodeEncode.setSecond dt v
  | .toBCD dt => DecodeEncode.toBCD dt
  | .fromBCD buffer => DecodeEncode.fromBCD buffer
  | .getYear dt => DecodeEncode.getYear dt
  | .getMonth dt => DecodeEncode.getMonth dt
  | .getDay dt => DecodeEncode.getDay dt
  | .getWeek dt => DecodeEncode.getWeek dt
  | .getHour dt => DecodeEncode.getHour dt
  | .getMinute dt => DecodeEncode.getMinute dt
  | .getSecond dt => DecodeEncode.getSecond dt
  | .sendFrameHeader command length => DecodeEncode.sendFrameHeader command length
  | .sendByte b => DecodeEncode.sendByte b
  | .sendWord w => DecodeEncode.sendWord w
  | .sendBuffer bytes => DecodeEncode.sendBuffer bytes
  | .readByteWithTimeout => DecodeEncode.readByteWithTimeout
  | .drainInput => DecodeEncode.drainInput
  | .readExpectedFrameReg c a n => DecodeEncode.readExpectedFrameReg c a n
  | .readExpectedFrameVar c a n => DecodeEncode.readExpectedFrameVar c a n
  | .writeRegister addr data => DecodeEncode.writeRegister addr data
  | .writeRegisterByte addr b => DecodeEncode.writeRegisterByte addr b
  | .writeRegisterWord addr w => DecodeEncode.writeRegisterWord addr w
  | .readRegister addr buffLen => DecodeEncode.readRegister addr buffLen
  | .readRegisterByte addr => DecodeEncode.readRegisterByte addr
  | .readRegisterWord addr => DecodeEncode.readRegisterWord addr
  | .writeVariable addr data => DecodeEncode.writeVariable addr data
  | .writeVariableWord addr w => DecodeEncode.writeVariableWord addr w
  | .readVariable addr wordCount => DecodeEncode.readVariable addr wordCount
  | .readVariableWord addr => DecodeEncode.readVariableWord addr
  | .getRTC => DecodeEncode.getRTC
  | .setRTC value => DecodeEncode.setRTC value
  | .pollEvent maxWords => DecodeEncode.pollEvent maxWords
  | .construct headerHigh headerLow channel => DecodeEncode.construct headerHigh headerLow channel
  | .setTimeout ms => DecodeEncode.setTimeout ms
  | .fRW addr data => DecodeEncode.fRW addr data
  | .fRRQ addr count => DecodeEncode.fRRQ addr count
  | .fRRS h l addr data => DecodeEncode.fRRS h l addr data
  | .fVW addr data => DecodeEncode.fVW addr data
  | .fVRQ addr count => DecodeEncode.fVRQ addr count
  | .fVRS h l addr words => DecodeEncode.fVRS h l addr words
  | .fEV h l command addr words => DecodeEncode.fEV h l command addr words
  | .fRWRtcSet time => DecodeEncode.fRWRtcSet time
  | .bcd8 tens ones => DecodeEncode.bcd8 tens ones
  | .w16 high low => DecodeEncode.w16 high low
  | .dt7 buffer => DecodeEncode.dt7 buffer

/-! ### A step -/

section Step
variable {s : State} {p : Packet} {rest : List Packet}

theorem step_of_decode_ok {i : Instr} (hs : s.requests = p :: rest) (hd : decode s.opsel p = .ok i) :
    step s = exec i { s with requests := rest } := by
  simp only [step, hs, hd]

theorem step_of_decode_error {e : DecodeError} (hs : s.requests = p :: rest) (hd : decode s.opsel p = .error e) :
    step s = .refused (.undecodable e) := by
  simp only [step, hs, hd]

theorem step_of_idle (hs : s.requests = []) : step s = .next s.sync := by
  simp only [step, hs]

end Step

/-- A code that the map gives no operation does not decode, whatever follows it (R81). -/
theorem decode_of_unassigned {m : OpselMap} {code : Byte} (h : code ∉ m.map Prod.snd) (ops : List Byte) :
    decode m ⟨.opsel, code :: ops⟩ = .error (.unassignedOpsel code) := by
  simp only [decode, OpselMap.select_of_not_mem h]

end Sys2Proof.Laws
end

section
/-! SUPPORT. The converse of decoding: what each operand form, operation and frame format decodes from. -/

namespace Sys2Proof.Laws.EncodeDecode

open Sys2Proof Sys2Proof.Machine

/-! ### Operand forms: what was taken is the operand bytes of the values it was taken as -/

section Operands
variable {ops : List Byte} {i : Instr}

theorem take0_ok {j : Instr} (h : take0 j ops = .ok i) : ops = [] ∧ i = j := by
  unfold take0 at h
  split at h <;> cases h
  exact ⟨rfl, rfl⟩

theorem take1_ok {f : Byte → Instr} (h : take1 f ops = .ok i) : ∃ a, ops = [a] ∧ i = f a := by
  unfold take1 at h
  split at h <;> cases h
  exact ⟨_, rfl, rfl⟩

theorem take2_ok {f : Byte → Byte → Instr} (h : take2 f ops = .ok i) : ∃ a b, ops = [a, b] ∧ i = f a b := by
  unfold take2 at h
  split at h <;> cases h
  exact ⟨_, _, rfl, rfl⟩

theorem take3_ok {f : Byte → Byte → Byte → Instr} (h : take3 f ops = .ok i) :
    ∃ a b c, ops = [a, b, c] ∧ i = f a b c := by
  unfold take3 at h
  split at h <;> cases h
  exact ⟨_, _, _, rfl, rfl⟩

/-- A byte pair is the operand bytes of the word it packs into. -/
@[simp] theorem wordOperand_packWord (h l : Byte) : wordOperand (packWord h l) = [h, l] := by simp [wordOperand]

theorem takeW_ok {f : Word → Instr} (h : takeW f ops = .ok i) : ∃ w, ops = wordOperand w ∧ i = f w := by
  unfold takeW at h
  split at h <;> cases h
  exact ⟨_, (wordOperand_packWord _ _).symm, rfl⟩

theorem takeBW_ok {f : Byte → Word → Instr} (h : takeBW f ops = .ok i) :
    ∃ a w, ops = a :: wordOperand w ∧ i = f a w := by
  unfold takeBW at h
  split at h <;> cases h
  exact ⟨_, _, by rw [wordOperand_packWord], rfl⟩

theorem takeWB_ok {f : Word → Byte → Instr} (h : takeWB f ops = .ok i) :
    ∃ w b, ops = wordOperand w ++ [b] ∧ i = f w b := by
  unfold takeWB at h
  split at h <;> cases h
  exact ⟨_, _, by rw [wordOperand_packWord]; rfl, rfl⟩

theorem takeBWB_ok {f : Byte → Word → Byte → Instr} (h : takeBWB f ops = .ok i) :
    ∃ a w b, ops = a :: wordOperand w ++ [b] ∧ i = f a w b := by
  unfold takeBWB at h
  split at h <;> cases h
  exact ⟨_, _, _, by rw [wordOperand_packWord]; rfl, rfl⟩

theorem takeWW_ok {f : Word → Word → Instr} (h : takeWW f ops = .ok i) :
    ∃ v w, ops = wordOperand v ++ wordOperand w ∧ i = f v w := by
  unfold takeWW at h
  split at h <;> cases h
  exact ⟨_, _, by rw [wordOperand_packWord, wordOperand_packWord]; rfl, rfl⟩

theorem takeDate_ok {f : Word → Byte → Byte → Instr} (h : takeDate f ops = .ok i) :
    ∃ y mo d, ops = wordOperand y ++ [mo, d] ∧ i = f y mo d := by
  unfold takeDate at h
  split at h <;> cases h
  exact ⟨_, _, _, by rw [wordOperand_packWord]; rfl, rfl⟩

theorem takeDateTime_ok {f : Word → Byte → Byte → Byte → Byte → Byte → Byte → Instr}
    (h : takeDateTime f ops = .ok i) :
    ∃ y mo d w ho mi s, ops = wordOperand y ++ [mo, d, w, ho, mi, s] ∧ i = f y mo d w ho mi s := by
  unfold takeDateTime at h
  split at h <;> cases h
  exact ⟨_, _, _, _, _, _, _, by rw [wordOperand_packWord]; rfl, rfl⟩

theorem takeDt_ok {f : DateTime → Instr} (h : takeDt f ops = .ok i) : ∃ dt, ops = dateTimeBytes dt ∧ i = f dt := by
  unfold takeDt at h
  split at h <;> cases h
  exact ⟨_, rfl, rfl⟩

theorem takeDtB_ok {f : DateTime → Byte → Instr} (h : takeDtB f ops = .ok i) :
    ∃ dt v, ops = dateTimeBytes dt ++ [v] ∧ i = f dt v := by
  unfold takeDtB at h
  split at h <;> cases h
  exact ⟨_, _, rfl, rfl⟩

theorem takeDtW_ok {f : DateTime → Word → Instr} (h : takeDtW f ops = .ok i) :
    ∃ dt w, ops = dateTimeBytes dt ++ wordOperand w ∧ i = f dt w := by
  unfold takeDtW at h
  split at h <;> cases h
  exact ⟨_, _, by rw [wordOperand_packWord]; rfl, rfl⟩

theorem takeDT7_ok {f : DT7 → Instr} (h : takeDT7 f ops = .ok i) : ∃ b, ops = dt7Bytes b ∧ i = f b := by
  unfold takeDT7 at h
  split at h <;> cases h
  exact ⟨_, rfl, rfl⟩

theorem takeBData_ok {f : Byte → List Byte → Instr} (h : takeBData f ops = .ok i) :
    ∃ a data, ops = a :: data ∧ i = f a data := by
  unfold takeBData at h
  split at h <;> cases h
  exact ⟨_, _, rfl, rfl⟩

theorem takeWPairs_ok {f : Word → List (Byte × Byte) → Instr} (h : takeWPairs f ops = .ok i) :
    ∃ w ps, ops = wordOperand w ++ pairBytes ps ∧ i = f w ps := by
  unfold takeWPairs at h
  split at h
  · split at h <;> cases h
    next ps hps => exact ⟨_, ps, by rw [wordOperand_packWord, pairBytes_of_pairsOf _ _ hps]; rfl, rfl⟩
  · cases h

/-- The channel byte that was taken is the one of the channel it was taken as. -/
theorem takeChannel_ok {base c : Byte} {f : Bool → Instr} (h : takeChannel base f c = .ok i) :
    ∃ channel : Bool, c = base + (if channel then 1 else 0) ∧ i = f channel := by
  unfold takeChannel at h
  split at h
  · cases h
    exact ⟨false, by simpa using ‹c = base›, rfl⟩
  · split at h <;> cases h
    exact ⟨true, ‹_›, rfl⟩

theorem takeConstruct_ok (h : takeConstruct ops = .ok i) :
    ∃ hi lo channel, ops = constructOperands hi lo channel ∧ i = .construct hi lo channel := by
  unfold takeConstruct at h
  split at h
  · obtain ⟨channel, rfl, rfl⟩ := takeChannel_ok h
    exact ⟨none, none, channel, by simp [constructOperands], rfl⟩
  · next x _ =>
    split at h
    · obtain ⟨channel, rfl, rfl⟩ := takeChannel_ok h
      exact ⟨some x, none, channel, by simp [constructOperands], rfl⟩
    · obtain ⟨channel, rfl, rfl⟩ := takeChannel_ok h
      exact ⟨none, some x, channel, rfl, rfl⟩
  · next hi lo _ =>
    obtain ⟨channel, rfl, rfl⟩ := takeChannel_ok h
    exact ⟨some hi, some lo, channel, by simp [constructOperands], rfl⟩
  · cases h

end Operands

/-! ### Operations -/

/-- Operands that decode as an operation's are the ones its packet carries (R82), but for leading zeros of a timeout. -/
theorem encode_of_decodeOperands (m : OpselMap) {op : Operation} {ops : List Byte} {i : Instr}
    (h : decodeOperands op ops = .ok i) (hi : ∀ ms, i ≠ .setTimeout ms) : encode m i = opselPacket m op ops := by
  cases op with
  | readByteWithTimeout | drainInput | getRTC =>
    obtain ⟨rfl, rfl⟩ := take0_ok h
    rfl
  | encodeBCD | decodeBCD | sendByte | readRegisterByte | readRegisterWord | pollEvent =>
    obtain ⟨_, rfl, rfl⟩ := take1_ok h
    rfl
  | packWord | sendFrameHeader | writeRegisterByte | readRegister =>
    obtain ⟨_, _, rfl, rfl⟩ := take2_ok h
    rfl
  | readExpectedFrameReg =>
    obtain ⟨_, _, _, rfl, rfl⟩ := take3_ok h
    rfl
  | unpackWord | sendWord | readVariableWord =>
    obtain ⟨_, rfl, rfl⟩ := takeW_ok h
    rfl
  | writeRegisterWord =>
    obtain ⟨_, _, rfl, rfl⟩ := takeBW_ok h
    rfl
  | readVariable =>
    obtain ⟨_, _, rfl, rfl⟩ := takeWB_ok h
    rfl
  | readExpectedFrameVar =>
    obtain ⟨_, _, _, rfl, rfl⟩ := takeBWB_ok h
    rfl
  | writeVariableWord =>
    obtain ⟨_, _, rfl, rfl⟩ := takeWW_ok h
    rfl
  | dateTimeDateOnly =>
    obtain ⟨_, _, _, rfl, rfl⟩ := takeDate_ok h
    rfl
  | dateTimeFull =>
    obtain ⟨_, _, _, _, _, _, _, rfl, rfl⟩ := takeDateTime_ok h
    rfl
  | toBCD | getYear | getMonth | getDay | getWeek | getHour | getMinute | getSecond | setRTC =>
    obtain ⟨_, rfl, rfl⟩ := takeDt_ok h
    rfl
  | setYearOffset | setMonth | setDay | setWeek | setHour | setMinute | setSecond =>
    obtain ⟨_, _, rfl, rfl⟩ := takeDtB_ok h
    rfl
  | setYear =>
    obtain ⟨_, _, rfl, rfl⟩ := takeDtW_ok h
    rfl
  | fromBCD =>
    obtain ⟨_, rfl, rfl⟩ := takeDT7_ok h
    rfl
  | writeRegister =>
    obtain ⟨_, _, rfl, rfl⟩ := takeBData_ok h
    rfl
  | writeVariable =>
    obtain ⟨_, _, rfl, rfl⟩ := takeWPairs_ok h
    rfl
  | construct =>
    obtain ⟨_, _, _, rfl, rfl⟩ := takeConstruct_ok h
    rfl
  | sendBuffer =>
    cases h
    rfl
  | setTimeout =>
    cases h
    exact absurd rfl (hi _)

/-- A packet of an operation that decodes carries the code of the operation its operands decode under (R81). -/
theorem decode_opsel_ok {m : OpselMap} {bytes : List Byte} {i : Instr} (h : decode m ⟨.opsel, bytes⟩ = .ok i) :
    ∃ code op ops, bytes = code :: ops ∧ m.select code = some op ∧ decodeOperands op ops = .ok i := by
  simp only [decode] at h
  split at h
  · cases h
  · next code ops =>
    split at h
    · next op hop => exact ⟨code, op, ops, rfl, hop, h⟩
    · cases h

/-! ### Frames: a frame that decodes is the frame its fields are laid out in -/

section Frames
variable {bytes : List Byte} {i : Instr}

/-- A length or count byte is the truncation of the number it was compared with. -/
theorem eq_trunc8 {n : Byte} {k : Nat} (h : n.toNat = k) : n = trunc8 k := by
  rw [← h]
  simp [trunc8]

theorem decodeRW_ok (h : decodeRW bytes = .ok i) : ∃ a data, bytes = bodyRW a data ∧ i = .fRW a data := by
  unfold decodeRW at h
  split at h
  · split at h
    · cases h
    · next hc =>
      split at h <;> cases h
      next hn => exact ⟨_, _, by rw [bodyRW, not_not.mp hc, eq_trunc8 (not_not.mp hn)], rfl⟩
  · cases h

theorem decodeRRQ_ok (h : decodeRRQ bytes = .ok i) : ∃ a n, bytes = bodyRRQ a n ∧ i = .fRRQ a n := by
  unfold decodeRRQ at h
  split at h
  · split at h
    · cases h
    · next hc =>
      split at h <;> cases h
      next hn => exact ⟨_, _, by rw [bodyRRQ, not_not.mp hc, eq_trunc8 (not_not.mp hn)]; rfl, rfl⟩
  · cases h

theorem decodeRRS_ok (h : decodeRRS bytes = .ok i) :
    ∃ hi lo a data, bytes = frameRRS hi lo a data ∧ i = .fRRS hi lo a data := by
  unfold decodeRRS at h
  split at h
  · split at h
    · cases h
    · next hc =>
      split at h <;> cases h
      next hn =>
        obtain ⟨hk, hn⟩ := not_or.mp hn
        exact ⟨_, _, _, _, by
          rw [frameRRS, not_not.mp hc, eq_trunc8 (not_not.mp hk), eq_trunc8 (not_not.mp hn)], rfl⟩
  · cases h

theorem decodeVW_ok (h : decodeVW bytes = .ok i) : ∃ a ps, bytes = bodyVW a ps ∧ i = .fVW a ps := by
  unfold decodeVW at h
  split at h
  · split at h
    · cases h
    · next hc =>
      split at h
      · cases h
      · next ps hps =>
        split at h <;> cases h
        next hn =>
          exact ⟨_, _, by
            rw [bodyVW, highByte_packWord, lowByte_packWord, not_not.mp hc, eq_trunc8 (not_not.mp hn),
              pairBytes_of_pairsOf _ _ hps], rfl⟩
  · cases h

theorem decodeVRQ_ok (h : decodeVRQ bytes = .ok i) : ∃ a n, bytes = bodyVRQ a n ∧ i = .fVRQ a n := by
  unfold decodeVRQ at h
  split at h
  · split at h
    · cases h
    · next hc =>
      split at h <;> cases h
      next hn =>
        exact ⟨_, _, by
          rw [bodyVRQ, highByte_packWord, lowByte_packWord, not_not.mp hc, eq_trunc8 (not_not.mp hn)]; rfl, rfl⟩
  · cases h

/-- The layout that responses and events share: the fields handed on are the ones of the frame. -/
theorem decodeWords_ok {f : Byte → Byte → Byte → Word → List Word → Except DecodeError Instr}
    (h : decodeWords f bytes = .ok i) :
    ∃ hi lo c a ws, bytes = frameWords hi lo c a ws ∧ f hi lo c a ws = .ok i := by
  unfold decodeWords at h
  split at h
  · split at h
    · cases h
    · next ws hws =>
      split at h
      · cases h
      · next hn =>
        obtain ⟨hk, hn⟩ := not_or.mp hn
        exact ⟨_, _, _, _, ws, by
          rw [frameWords, highByte_packWord, lowByte_packWord, eq_trunc8 (not_not.mp hk), eq_trunc8 (not_not.mp hn),
            wordBytes_of_wordsOf hws], h⟩
  · cases h

theorem decodeVRS_ok (h : decodeVRS bytes = .ok i) :
    ∃ hi lo a ws, bytes = frameWords hi lo Config.cmdVarRead a ws ∧ i = .fVRS hi lo a ws := by
  obtain ⟨hi, lo, c, a, ws, rfl, hf⟩ := decodeWords_ok h
  split at hf <;> cases hf
  next hc => exact ⟨hi, lo, a, ws, by rw [not_not.mp hc], rfl⟩

theorem decodeEV_ok (h : decodeEV bytes = .ok i) :
    ∃ hi lo c a ws, bytes = frameWords hi lo c a ws ∧ i = .fEV hi lo c a ws := by
  obtain ⟨hi, lo, c, a, ws, rfl, hf⟩ := decodeWords_ok h
  cases hf
  exact ⟨hi, lo, c, a, ws, rfl, rfl⟩

theorem decodeRtcSet_ok (h : decodeRtcSet bytes = .ok i) : ∃ t, bytes = bodyRtcSet t ∧ i = .fRWRtcSet t := by
  unfold decodeRtcSet at h
  split at h
  · split at h
    · cases h
    · next hc =>
      split at h
      · cases h
      · next hn =>
        split at h
        · cases h
        · next ham =>
          obtain ⟨ha, hm⟩ := not_or.mp ham
          obtain ⟨t, rfl, rfl⟩ := takeDT7_ok h
          exact ⟨t, by rw [bodyRtcSet, not_not.mp hc, not_not.mp hn, not_not.mp ha, not_not.mp hm], rfl⟩
  · cases h

end Frames

/-- A packet that decodes is the packet of what it decodes to, but for leading zeros of a timeout. -/
theorem encode_of_decode {m : OpselMap} (hm : m.Valid) {p : Packet} {i : Instr} (h : decode m p = .ok i)
    (hi : ∀ ms, i ≠ .setTimeout ms) : encode m i = p := by
  obtain ⟨format, bytes⟩ := p
  cases format with
  | opsel =>
    obtain ⟨code, op, ops, rfl, hop, hops⟩ := decode_opsel_ok h
    rw [encode_of_decodeOperands m hops hi, opselPacket, hm.code_of_select hop]
  | fRW =>
    obtain ⟨_, _, rfl, rfl⟩ := decodeRW_ok h
    rfl
  | fRRQ =>
    obtain ⟨_, _, rfl, rfl⟩ := decodeRRQ_ok h
    rfl
  | fRRS =>
    obtain ⟨_, _, _, _, rfl, rfl⟩ := decodeRRS_ok h
    rfl
  | fVW =>
    obtain ⟨_, _, rfl, rfl⟩ := decodeVW_ok h
    rfl
  | fVRQ =>
    obtain ⟨_, _, rfl, rfl⟩ := decodeVRQ_ok h
    rfl
  | fVRS =>
    obtain ⟨_, _, _, _, rfl, rfl⟩ := decodeVRS_ok h
    rfl
  | fEV =>
    obtain ⟨_, _, _, _, _, rfl, rfl⟩ := decodeEV_ok h
    rfl
  | fRWRtcSet =>
    obtain ⟨_, rfl, rfl⟩ := decodeRtcSet_ok h
    rfl
  | bcd8 =>
    obtain ⟨b, rfl, rfl⟩ := take1_ok h
    simp [encode]
  | w16 =>
    obtain ⟨_, _, rfl, rfl⟩ := take2_ok h
    rfl
  | dt7 =>
    obtain ⟨_, rfl, rfl⟩ := takeDT7_ok h
    rfl

end Sys2Proof.Laws.EncodeDecode
end

section
/-! SUPPORT. Everything an instruction can do, as far as its stops, its signal and the session are concerned: said once for an
attempt, once for a result, and then once for each kind of instruction. -/

namespace Sys2Proof.Machine

/-! ### Attempts -/

/-- What an attempt started in `s` can be: it leaves the session as it is, a failure has a cause, it is refused only where
its operands do not fit (`fits`), and it does not end only if it drains (`drains`) an attached channel on a link that never
pauses (R141, R174, R177). -/
inductive Attempt.EndsFrom {α : Type} (s : State) (fits drains : Prop) : Attempt α → Prop
  | ok (a : α) {t : State} (hs : SameSession s t) : EndsFrom s fits drains (.ok a t)
  | fail {c : Cause} {t : State} (hs : SameSession s t) (hc : c ≠ .none) : EndsFrom s fits drains (.fail c t)
  | refuse (r : Refusal) (hf : ¬ fits) : EndsFrom s fits drains (.refuse r)
  | stuck (f : Fault) (hd : drains) (ha : s.attached = true) (hl : s.drainEnds = false) :
    EndsFrom s fits drains (.stuck f)

/-- An attempt that drains nothing, made after a part of the operation that left the session as it was. -/
theorem Attempt.EndsFrom.after {α : Type} {s u : State} {fits drains : Prop} {x : Attempt α} (hs : SameSession s u)
    (hx : x.EndsFrom u fits False) : x.EndsFrom s fits drains := by
  cases hx with
  | ok a ht => exact .ok a (hs.trans ht)
  | fail ht hc => exact .fail (hs.trans ht) hc
  | refuse r hf => exact .refuse r hf
  | stuck f hd => exact hd.elim

theorem Received.sameSession {s t : State} {taken : List Byte} {calls waits : Nat}
    (h : Received s t taken calls waits) : SameSession s t := by
  obtain ⟨-, -, -, -, -, -, hs, -⟩ := h
  exact hs

theorem SameSession.attached_eq {s t : State} (h : SameSession s t) : t.attached = s.attached := by
  obtain ⟨-, -, -, ha, -⟩ := h
  exact ha

theorem SameSession.transmit (s : State) (bs : List Byte) : SameSession s (s.transmit bs) := SameSession.refl s

theorem SameSession.sync (s : State) : SameSession s s.sync := (OnlyReceives.sync s).1

/-- Draining and sending a request leave the session as it is (R144, R147). -/
theorem SameSession.drain_transmit (s : State) (bs : List Byte) :
    SameSession s ({ s.sync with rxq := [] }.transmit bs) := SameSession.sync s

section Attempts
variable {fits drains : Prop} (s : State)

theorem sendRaw_endsFrom (bs : List Byte) : (sendRaw bs s).EndsFrom s fits drains := by
  rcases sendRaw_cases bs s with ⟨-, h⟩ | ⟨-, h⟩ <;> rw [h]
  · exact .ok () (SameSession.transmit s bs)
  · exact .fail (SameSession.refl s) nofun

theorem writeRegister_endsFrom (addr : Byte) {data : List Byte} (hfits : fits → data.length ≤ 253) :
    (writeRegister addr data s).EndsFrom s fits drains := by
  rcases writeRegister_cases addr data s with ⟨hn, h⟩ | ⟨-, -, h⟩ | ⟨-, -, h⟩ <;> rw [h]
  · exact .refuse _ fun hf => absurd (hfits hf) (by omega)
  · exact .fail (SameSession.refl s) nofun
  · exact .ok () (SameSession.transmit s _)

theorem writeVariable_endsFrom (addr : Word) {data : List (Byte × Byte)} (hfits : fits → data.length ≤ 126) :
    (writeVariable addr data s).EndsFrom s fits drains := by
  rcases writeVariable_cases addr data s with ⟨hn, h⟩ | ⟨-, -, h⟩ | ⟨-, -, h⟩ <;> rw [h]
  · exact .refuse _ fun hf => absurd (hfits hf) (by omega)
  · exact .fail (SameSession.refl s) nofun
  · exact .ok () (SameSession.transmit s _)

theorem readExpectedReg_endsFrom (cmd addr : Byte) {n : Byte} (hfits : fits → n.toNat ≤ 252) :
    (readExpectedReg cmd addr n s).EndsFrom s fits drains := by
  rcases readExpectedReg_cases cmd addr n s with
    ⟨hn, h⟩ | ⟨-, -, h⟩ | ⟨-, -, data, t, _, _, -, h, hr⟩ | ⟨-, -, f, t, _, _, _, h, -, hr⟩ <;> rw [h]
  · exact .refuse _ fun hf => absurd (hfits hf) (by omega)
  · exact .fail (SameSession.refl s) nofun
  · exact .ok data hr.sameSession
  · exact .fail hr.sameSession nofun

theorem readExpectedVar_endsFrom (cmd : Byte) (addr : Word) {n : Byte} (hfits : fits → n.toNat ≤ 125) :
    (readExpectedVar cmd addr n s).EndsFrom s fits drains := by
  rcases readExpectedVar_cases cmd addr n s with
    ⟨hn, h⟩ | ⟨-, -, h⟩ | ⟨-, -, words, t, _, _, -, h, hr⟩ | ⟨-, -, f, t, _, _, _, h, -, hr⟩ <;> rw [h]
  · exact .refuse _ fun hf => absurd (hfits hf) (by omega)
  · exact .fail (SameSession.refl s) nofun
  · exact .ok words hr.sameSession
  · exact .fail hr.sameSession nofun

theorem drainInput_endsFrom (hdrains : drains) : (drainInput s).EndsFrom s fits drains := by
  rcases drainInput_cases s with ⟨-, h⟩ | ⟨-, -, h⟩ | ⟨ha, hl, h⟩ <;> rw [h]
  · exact .ok () (SameSession.refl s)
  · exact .ok () (SameSession.sync s)
  · exact .stuck _ hdrains ha hl

theorem readRegister_endsFrom (addr : Byte) {n : Byte} (hfits : fits → n.toNat ≤ 252) (hdrains : drains) :
    (readRegister addr n s).EndsFrom s fits drains := by
  rcases readRegister_cases addr n s with ⟨hn, h⟩ | ⟨-, -, h⟩ | ⟨-, ha, hl, h⟩ | ⟨-, -, -, h⟩ <;> rw [h]
  · exact .refuse _ fun hf => absurd (hfits hf) (by omega)
  · exact .fail (SameSession.refl s) nofun
  · exact .stuck _ hdrains ha hl
  · exact .after (SameSession.drain_transmit s _) (readExpectedReg_endsFrom _ _ _ hfits)

theorem readVariable_endsFrom (addr : Word) {n : Byte} (hfits : fits → n.toNat ≤ 125) (hdrains : drains) :
    (readVariable addr n s).EndsFrom s fits drains := by
  rcases readVariable_cases addr n s with ⟨hn, h⟩ | ⟨-, -, h⟩ | ⟨-, ha, hl, h⟩ | ⟨-, -, -, h⟩ <;> rw [h]
  · exact .refuse _ fun hf => absurd (hfits hf) (by omega)
  · exact .fail (SameSession.refl s) nofun
  · exact .stuck _ hdrains ha hl
  · exact .after (SameSession.drain_transmit s _) (readExpectedVar_endsFrom _ _ _ hfits)

theorem pollFrame_endsFrom (m : Byte) (ha : s.attached = true) : (pollFrame m s).EndsFrom s fits drains := by
  rcases pollFrame_cases m s ha with ⟨t, _, _, h, hr⟩ | ⟨t, _, _, _, h, -, hr⟩ | ⟨ev, t, _, _, _, h, -, -, hr⟩ <;>
    rw [h]
  · exact .fail hr.sameSession nofun
  · exact .fail hr.sameSession nofun
  · exact .ok ev hr.sameSession

theorem pollEvent_endsFrom (m : Byte) : (pollEvent m s).EndsFrom s fits drains := by
  unfold pollEvent
  split
  · next ha =>
    split
    · exact .fail (SameSession.sync s) nofun
    · next b later _ =>
      have hs : SameSession s { s.sync with rxq := later } := SameSession.sync s
      split
      · exact .fail hs nofun
      · exact .after hs (pollFrame_endsFrom _ m (hs.attached_eq.trans ha))
  · exact .fail (SameSession.refl s) nofun

end Attempts

/-! ### Results -/

/-- What the result of an operation on the session or the channel, run in `s`, can be: an answer with the signal `good` and no
cause or with the signal `bad` and a cause, the session being left as it is; or one of the stops. -/
inductive Answers (s : State) (fits drains : Prop) (good bad : Option Bool) : Result → Prop
  | ok {t : State} {r : Reply} (hs : SameSession s t) (hr : successSignal r = good) :
    Answers s fits drains good bad (.next (t.answer r .none))
  | failed {t : State} {r : Reply} {c : Cause} (hs : SameSession s t) (hr : successSignal r = bad) (hc : c ≠ .none) :
    Answers s fits drains good bad (.next (t.answer r c))
  | refused (r : Refusal) (h : s.constructed = false ∨ ¬ fits) : Answers s fits drains good bad (.refused r)
  | fault (f : Fault) (hd : drains) (ha : s.attached = true) (hl : s.drainEnds = false) :
    Answers s fits drains good bad (.fault f)

section Results
variable {s : State} {fits drains : Prop} {good bad : Option Bool} {r : Result}

theorem whenConstructed_answers (h : Answers s fits drains good bad r) :
    Answers s fits drains good bad (whenConstructed s r) := by
  cases hc : s.constructed
  · rw [whenConstructed_of_not r hc]
    exact .refused _ (.inl hc)
  · rwa [whenConstructed_of_constructed r hc]

/-- An attempt shown to the host, its failures as `neg`. -/
theorem deliver_answers {α : Type} {x : Attempt α} {neg : Reply} {shown : α → Reply} (hx : x.EndsFrom s fits drains)
    (hneg : successSignal neg = bad) (hshown : ∀ a, successSignal (shown a) = good) :
    Answers s fits drains good bad (deliver neg shown x) := by
  cases hx with
  | ok a hs => exact .ok hs (hshown a)
  | fail hs hc => exact .failed hs hneg hc
  | refuse r hf => exact .refused r (.inr hf)
  | stuck f hd ha hl => exact .fault f hd ha hl

/-- A send operation shows the success signal and nothing else. -/
theorem deliverSend_answers {x : Attempt Unit} (hx : x.EndsFrom s fits drains) :
    Answers s fits drains (some true) (some false) (deliverSend s x) :=
  whenConstructed_answers (deliver_answers hx rfl fun _ => rfl)

/-- A frame of the block answers as a send operation does. -/
theorem sendFrame_answers {fitsByte : Bool} (body : List Byte) (hfits : fits → fitsByte = true) :
    Answers s fits drains (some true) (some false) (sendFrame fitsByte body s) := by
  refine whenConstructed_answers ?_
  split
  · exact deliver_answers (sendRaw_endsFrom s _) rfl fun _ => rfl
  · next h => exact .refused _ (.inr fun hf => h (hfits hf))

/-- No stop is left within bounds, in a constructed session, where a drain ends. -/
theorem Answers.completes (h : Answers s fits drains good bad r) (hf : fits) (hc : s.constructed = true)
    (hd : drains → s.attached = true → s.drainEnds = true) : Completes r := by
  cases h with
  | ok | failed => exact ⟨_, rfl⟩
  | refused r h => exact absurd h (by simp [hc, hf])
  | fault f hd' ha hl => exact absurd (hd hd' ha) (by simp [hl])

theorem Answers.sameSession {t : State} (h : Answers s fits drains good bad (.next t)) : SameSession s t := by
  cases h with
  | ok hs | failed hs => exact hs

/-- The one cause with code 0 is that there was no failure (R170). -/
theorem causeCode_eq_zero_iff (c : Cause) : causeCode c = 0 ↔ c = .none := by cases c <;> simp [causeCode]

/-- The signal says which of the two answers it was. -/
theorem Answers.signal_iff {t : State} (h : Answers s fits drains (some true) (some false) (.next t)) :
    successSignal t.reply = some (causeCode t.cause == 0) := by
  cases h with
  | ok hs hr => simpa [causeCode] using hr
  | failed hs hr hc =>
    have hcode : (causeCode _ == 0) = false := beq_eq_false_iff_ne.mpr ((causeCode_eq_zero_iff _).not.mpr hc)
    rw [answer_reply, answer_cause, hr, hcode]

theorem Answers.no_signal {t : State} (h : Answers s fits drains none none (.next t)) :
    successSignal t.reply = none := by
  cases h with
  | ok hs hr | failed hs hr => exact hr

end Results

/-! ### Instructions, by kind -/

section Kinds
variable {i : Instr} (s : State)

theorem eq_construct_of_kind (h : i.kind = .construct) : ∃ hi lo channel, i = .construct hi lo channel := by
  cases i with
  | construct hi lo channel => exact ⟨hi, lo, channel, rfl⟩
  | _ => cases h

theorem eq_setTimeout_of_kind (h : i.kind = .setTimeout) : ∃ ms, i = .setTimeout ms := by
  cases i with
  | setTimeout ms => exact ⟨ms, rfl⟩
  | _ => cases h

/-- What `construct` answers, in every state (R160). -/
theorem exec_construct (hi lo : Option Byte) (channel : Bool) :
    exec (.construct hi lo channel) s =
      .next (State.answer
        { s with hdrH := hi.getD hdrHInit, hdrL := lo.getD hdrLInit, timeoutMs := timeoutInit, attached := channel,
                 constructed := true, txs := [] } .nothing .none) := rfl

/-- What `setTimeout` answers (R161). -/
theorem exec_setTimeout (ms : Nat) :
    exec (.setTimeout ms) s = whenConstructed s (.next (State.answer { s with timeoutMs := ms } .nothing .none)) := rfl

/-- A pure operation answers a value and changes nothing else (R95, R162). -/
theorem exec_codec (h : i.kind = .codec) : ∃ r : Reply, exec i s = .next (s.answer r .none) := by
  cases i with
  | encodeBCD | decodeBCD | packWord | unpackWord | dateTimeFull | dateTimeDateOnly | setYear | setYearOffset | setMonth
  | setDay | setWeek | setHour | setMinute | setSecond | toBCD | fromBCD | getYear | getMonth | getDay | getWeek
  | getHour | getMinute | getSecond | bcd8 | w16 | dt7 => exact ⟨_, rfl⟩
  | _ => cases h

/-- A frame of the device joins the queue and does nothing else, or is refused beyond its bound. -/
theorem exec_of_receiveFrame {fitsByte : Bool} {frame : List Byte} (he : exec i s = receiveFrame fitsByte frame s)
    (hfits : fitsByte = true ↔ i.InBounds) :
    (i.InBounds ∧ ∃ received, exec i s = .next { s with rxq := s.rxq ++ received }) ∨
      (¬ i.InBounds ∧ exec i s = .refused .lengthOverflow) := by
  by_cases hb : i.InBounds
  · exact .inl ⟨hb, frame, by rw [he, receiveFrame, if_pos (hfits.mpr hb)]⟩
  · exact .inr ⟨hb, by rw [he, receiveFrame, if_neg (hfits.not.mpr hb)]⟩

/-- Everything a frame of the device can do (R64, R67, R70, R71). -/
theorem exec_delivery (h : i.kind = .delivery) :
    (i.InBounds ∧ ∃ received, exec i s = .next { s with rxq := s.rxq ++ received }) ∨
      (¬ i.InBounds ∧ exec i s = .refused .lengthOverflow) := by
  cases i with
  | fRRS | fVRS | fEV => exact exec_of_receiveFrame s rfl decide_eq_true_iff
  | _ => cases h

theorem exec_send (h : i.kind = .send) : Answers s i.InBounds i.Drains (some true) (some false) (exec i s) := by
  cases i with
  | sendFrameHeader | sendByte | sendWord | sendBuffer => exact deliverSend_answers (sendRaw_endsFrom s _)
  | writeRegister => exact deliverSend_answers (writeRegister_endsFrom s _ id)
  | writeRegisterByte | writeRegisterWord | setRTC =>
    exact deliverSend_answers (writeRegister_endsFrom s _ fun _ => by simp [dt7Bytes])
  | writeVariable => exact deliverSend_answers (writeVariable_endsFrom s _ id)
  | writeVariableWord => exact deliverSend_answers (writeVariable_endsFrom s _ fun _ => by simp)
  | fRW | fVW => exact sendFrame_answers _ fun hf => decide_eq_true hf
  | fRRQ | fVRQ | fRWRtcSet => exact sendFrame_answers _ fun _ => rfl
  | _ => cases h

/-- An operation that carries a success signal shows it: true with no cause, or false with one (R27, R170). -/
theorem exec_signals (h : i.Signals) : Answers s i.InBounds i.Drains (some true) (some false) (exec i s) := by
  rcases h with hk | ⟨c, a, n, rfl⟩ | ⟨c, a, n, rfl⟩ | ⟨a, n, rfl⟩ | ⟨a, n, rfl⟩ | rfl | ⟨m, rfl⟩
  case inl => exact exec_send s hk
  all_goals refine whenConstructed_answers (deliver_answers ?_ rfl fun _ => rfl)
  · exact readExpectedReg_endsFrom s c a id
  · exact readExpectedVar_endsFrom s c a id
  · exact readRegister_endsFrom s a id (.inr rfl)
  · exact readVariable_endsFrom s a id (.inr rfl)
  · exact readRegister_endsFrom s _ (fun _ => by decide) (.inr rfl)
  · exact pollEvent_endsFrom s m

/-- A bare byte read answers a byte, whatever happens (R140). -/
theorem execReadByteWithTimeout_answers {fits drains : Prop} :
    Answers s fits drains none none (execReadByteWithTimeout s) := by
  refine whenConstructed_answers ?_
  have hs : SameSession s (rbt s).state := (rbt_onlyReceives s).1
  by_cases hc : byteReadCause s (rbt s) = .none
  · rw [hc]
    exact .ok hs rfl
  · exact .failed hs rfl hc

/-- A drain has no result, with or without a channel (R141, R171). -/
theorem execDrainInput_answers {fits drains : Prop} (hdrains : drains) :
    Answers s fits drains none none (execDrainInput s) := by
  refine whenConstructed_answers ?_
  split
  · exact deliver_answers (drainInput_endsFrom s hdrains) rfl fun _ => rfl
  · exact .failed (SameSession.refl s) rfl nofun

/-- The receiving operations without a success signal: the byte read, the drain and the wrappers, which collapse a failure
into a value (R179). -/
theorem exec_silent (hk : i.kind = .receive ∨ i.kind = .exchange) (h : ¬ i.Signals) :
    Answers s i.InBounds i.Drains none none (exec i s) := by
  cases i with
  | readByteWithTimeout => exact execReadByteWithTimeout_answers s
  | drainInput => exact execDrainInput_answers s (.inl rfl)
  | readRegisterByte | readRegisterWord =>
    exact whenConstructed_answers
      (deliver_answers (readRegister_endsFrom s _ (fun _ => by decide) (.inr rfl)) rfl fun _ => rfl)
  | readVariableWord =>
    exact whenConstructed_answers
      (deliver_answers (readVariable_endsFrom s _ (fun _ => by decide) (.inr rfl)) rfl fun _ => rfl)
  | readExpectedFrameReg | readExpectedFrameVar | readRegister | readVariable | getRTC | pollEvent =>
    exact absurd (by simp [Instr.Signals]) h
  | _ => rcases hk with hk | hk <;> cases hk

/-- What every operation on the channel can do. -/
theorem exec_answers (hk : i.kind = .send ∨ i.kind = .receive ∨ i.kind = .exchange) :
    ∃ good bad, Answers s i.InBounds i.Drains good bad (exec i s) := by
  by_cases h : i.Signals
  · exact ⟨_, _, exec_signals s h⟩
  · rcases hk with hk | hk
    · exact absurd (.inl hk) h
    · exact ⟨_, _, exec_silent s hk h⟩

/-- Only `construct` and `setTimeout` touch the session (R21 to R24, R177). -/
theorem exec_sameSession {s t : State} (hc : i.kind ≠ .construct) (ht : i.kind ≠ .setTimeout)
    (h : exec i s = .next t) : SameSession s t := by
  cases hk : i.kind with
  | construct => exact absurd hk hc
  | setTimeout => exact absurd hk ht
  | codec =>
    obtain ⟨r, he⟩ := exec_codec s hk
    cases he.symm.trans h
    exact SameSession.refl s
  | delivery =>
    rcases exec_delivery s hk with ⟨-, received, he⟩ | ⟨-, he⟩ <;> cases he.symm.trans h
    exact SameSession.refl s
  | send | receive | exchange =>
    obtain ⟨good, bad, ha⟩ := exec_answers s (i := i) (by simp [hk])
    rw [h] at ha
    exact ha.sameSession

/-- Within bounds, in a constructed session and where a drain ends, no stop is left (R11, R177). -/
theorem exec_completes (hb : i.InBounds) (hc : s.constructed = true)
    (hd : i.Drains → s.attached = true → s.drainEnds = true) : Completes (exec i s) := by
  cases hk : i.kind with
  | construct =>
    obtain ⟨hi, lo, channel, rfl⟩ := eq_construct_of_kind hk
    exact ⟨_, exec_construct s hi lo channel⟩
  | setTimeout =>
    obtain ⟨ms, rfl⟩ := eq_setTimeout_of_kind hk
    exact ⟨_, (exec_setTimeout s ms).trans (whenConstructed_of_constructed _ hc)⟩
  | codec =>
    obtain ⟨r, he⟩ := exec_codec s hk
    exact ⟨_, he⟩
  | delivery =>
    rcases exec_delivery s hk with ⟨-, received, he⟩ | ⟨hn, -⟩
    · exact ⟨_, he⟩
    · exact absurd hb hn
  | send | receive | exchange =>
    obtain ⟨good, bad, ha⟩ := exec_answers s (i := i) (by simp [hk])
    exact ha.completes hb hc hd

/-- The operations of the session and the channel that are not said to carry a signal carry none (R27). -/
theorem exec_no_signal {s t : State} (h : ¬ i.Signals) (hcodec : i.kind ≠ .codec) (hdelivery : i.kind ≠ .delivery)
    (he : exec i s = .next t) : successSignal t.reply = none := by
  cases hk : i.kind with
  | codec => exact absurd hk hcodec
  | delivery => exact absurd hk hdelivery
  | send => exact absurd (.inl hk) h
  | construct =>
    obtain ⟨hi, lo, channel, rfl⟩ := eq_construct_of_kind hk
    cases (exec_construct s hi lo channel).symm.trans he
    rfl
  | setTimeout =>
    obtain ⟨ms, rfl⟩ := eq_setTimeout_of_kind hk
    obtain ⟨-, hn⟩ := whenConstructed_next ((exec_setTimeout s ms).symm.trans he)
    cases hn
    rfl
  | receive | exchange =>
    have ha := exec_silent s (i := i) (by simp [hk]) h
    rw [he] at ha
    exact ha.no_signal

end Kinds

end Sys2Proof.Machine
end

section
/-! The obligations of the block's scope: packets, steps, completion and the session. -/

namespace Sys2Proof.Scope

open Sys2Proof Sys2Proof.Machine

/-- Settles O6: the three branches of `step`, each by its own law. -/
theorem stepRunsDecodedInstruction : Obligations.StepRunsDecodedInstruction :=
  ⟨fun _ _ _ _ => Laws.step_of_decode_ok, fun _ _ _ _ => Laws.step_of_decode_error, fun _ => Laws.step_of_idle⟩

/-- Settles O5: an unassigned code selects no operation, so its packet does not decode; R81's table is the list of the codes of
the default map. -/
theorem unassignedCodesRefused : Obligations.UnassignedCodesRefused := by
  intro s code ops rest hs
  have refused (h : code ∉ s.opsel.map Prod.snd) : step s = .refused (.undecodable (.unassignedOpsel code)) :=
    Laws.step_of_decode_error hs (Laws.decode_of_unassigned h ops)
  refine ⟨refused, fun hm hcode => refused fun hmem => hcode ?_⟩
  rw [hm] at hmem
  exact List.mem_map_of_mem (f := BitVec.toNat) hmem

/-- Settles O2, by inverting the decoder: operand form by operand form, and frame format by frame format. -/
theorem encodeDecodeAgree : Obligations.EncodeDecodeAgree :=
  fun _ _ _ hm h hi => Laws.EncodeDecode.encode_of_decode hm h hi

/-- Settles O1, from the round trip of each instruction. -/
theorem decodeEncodeAgree : Obligations.DecodeEncodeAgree :=
  fun m i hm hi => Laws.decode_encode i m hm hi

/-- Settles O54, from the stops and the signal of each kind of instruction. -/
theorem inBoundsCompletes : Obligations.InBoundsCompletes := by
  refine ⟨fun i s => exec_completes s, fun i s t he => ⟨fun h => ?_, fun h hcodec hdelivery => ?_⟩⟩
  · have ha := exec_signals s h
    rw [he] at ha
    exact ha.signal_iff
  · exact exec_no_signal h hcodec hdelivery he

/-- Settles O56: every kind of instruction but `construct` and `setTimeout` leaves the session as it is, and these two write
the registers their equations show. -/
theorem onlyConstructionWritesSession : Obligations.OnlyConstructionWritesSession := by
  intro i s t he
  by_cases hc : i.kind = .construct
  · obtain ⟨hi, lo, channel, rfl⟩ := eq_construct_of_kind hc
    cases (exec_construct s hi lo channel).symm.trans he
    exact ⟨rfl, fun h => absurd hc h⟩
  by_cases ht : i.kind = .setTimeout
  · obtain ⟨ms, rfl⟩ := eq_setTimeout_of_kind ht
    obtain ⟨-, hn⟩ := whenConstructed_next ((exec_setTimeout s ms).symm.trans he)
    cases hn
    exact ⟨rfl, fun _ => ⟨fun h => absurd ht h, rfl, rfl, rfl, rfl⟩⟩
  · obtain ⟨hdrH, hdrL, htimeout, hattached, hconstructed, hopsel⟩ := exec_sameSession hc ht he
    exact ⟨hopsel, fun _ => ⟨fun _ => htimeout, hdrH, hdrL, hattached, hconstructed⟩⟩

end Sys2Proof.Scope
end

section
/-! SUPPORT. What every operation does to the streams, to time and to the model's read counts, and that the host sees what R170's
table has: said once for an attempt, once for a result, and then once for each kind of instruction. -/

namespace Sys2Proof.Machine

/-! ### Moving forward -/

/-- Nothing that was sent, taken or waited for between `s` and `t` was undone (R28, R48, R152), and nothing was sent unless the
operation `sends`. -/
structure MovesForward (sends : Prop) (s t : State) : Prop where
  sent : ∃ bytes, t.txs = s.txs ++ bytes
  unsent : ¬ sends → t.txs = s.txs
  taken : ∃ bytes, s.incoming = bytes ++ t.incoming
  clock_le : s.clock ≤ t.clock
  requests_eq : t.requests = s.requests
  timeouts_le : s.rbtTimeouts ≤ s.rbtCalls → t.rbtTimeouts ≤ t.rbtCalls

section Moves
variable {sends : Prop} {s t u : State}

/-- Two states with the same streams, clock and counts; the session and what the host sees may differ. -/
theorem MovesForward.of_same (htxs : t.txs = s.txs) (hin : t.incoming = s.incoming) (hclock : t.clock = s.clock)
    (hreq : t.requests = s.requests) (hcalls : t.rbtCalls = s.rbtCalls) (hwaits : t.rbtTimeouts = s.rbtTimeouts) :
    MovesForward sends s t where
  sent := ⟨[], by rw [htxs, List.append_nil]⟩
  unsent _ := htxs
  taken := ⟨[], by rw [hin, List.nil_append]⟩
  clock_le := hclock.ge
  requests_eq := hreq
  timeouts_le h := by rwa [hcalls, hwaits]

theorem MovesForward.refl (s : State) : MovesForward sends s s := .of_same rfl rfl rfl rfl rfl rfl

theorem MovesForward.trans (h : MovesForward sends s t) (h' : MovesForward sends t u) : MovesForward sends s u where
  sent := by
    obtain ⟨xs, hxs⟩ := h.sent
    obtain ⟨ys, hys⟩ := h'.sent
    exact ⟨xs ++ ys, by rw [hys, hxs, List.append_assoc]⟩
  unsent hn := (h'.unsent hn).trans (h.unsent hn)
  taken := by
    obtain ⟨xs, hxs⟩ := h.taken
    obtain ⟨ys, hys⟩ := h'.taken
    exact ⟨xs ++ ys, by rw [hxs, hys, List.append_assoc]⟩
  clock_le := h.clock_le.trans h'.clock_le
  requests_eq := h'.requests_eq.trans h.requests_eq
  timeouts_le hle := h'.timeouts_le (h.timeouts_le hle)

/-- What the host is handed moves nothing. -/
theorem MovesForward.answer (h : MovesForward sends s t) (r : Reply) (c : Cause) :
    MovesForward sends s (t.answer r c) :=
  h.trans (.of_same rfl rfl rfl rfl rfl rfl)

theorem MovesForward.transmit (hs : sends) (s : State) (bs : List Byte) : MovesForward sends s (s.transmit bs) where
  sent := ⟨bs, rfl⟩
  unsent hn := absurd hs hn
  taken := ⟨[], rfl⟩
  clock_le := le_rfl
  requests_eq := rfl
  timeouts_le := id

/-- The environment's turn brings bytes from the incoming stream to the queue. -/
theorem MovesForward.sync (s : State) : MovesForward sends s s.sync where
  sent := ⟨[], by simp⟩
  unsent _ := sync_txs s
  taken := ⟨[], by simp⟩
  clock_le := sync_clock_le s
  requests_eq := sync_requests s
  timeouts_le := by simp

/-- Bytes taken off the head of the queue. -/
theorem MovesForward.dequeue {front later : List Byte} (hq : s.rxq = front ++ later) :
    MovesForward sends s { s with rxq := later } where
  sent := ⟨[], by simp⟩
  unsent _ := rfl
  taken := ⟨front, by simp [State.incoming, hq]⟩
  clock_le := le_rfl
  requests_eq := rfl
  timeouts_le := id

/-- A drain takes the whole queue (R141). -/
theorem MovesForward.drain (s : State) : MovesForward sends s { s.sync with rxq := [] } :=
  (MovesForward.sync s).trans (.dequeue (List.append_nil _).symm)

/-- Byte reads, each of which takes a byte off the head of the incoming stream or expires (R152). -/
theorem Received.movesForward {taken : List Byte} {calls waits : Nat} (h : Received s t taken calls waits) :
    MovesForward sends s t := by
  obtain ⟨hin, hcount, hcalls, hwaits, hclock, -, -, htxs, hreq, -⟩ := h
  exact ⟨⟨[], by simp [htxs]⟩, fun _ => htxs, ⟨taken, hin⟩, hclock, hreq, fun hle => by omega⟩

theorem rbt_movesForward (s : State) : MovesForward sends s (rbt s).state := by
  cases ha : s.attached
  · rw [rbt_of_not_attached ha]
    exact .refl s
  · obtain ⟨_, _, -, h⟩ := rbt_received s ha
    exact h.movesForward

end Moves

/-! ### Attempts -/

/-- An attempt started in `s` moves forward; its outputs satisfy `outputs`, and its failures have a cause that the reply
`negative` can have. -/
inductive Attempt.Moves {α : Type} (s : State) (sends : Prop) (negative : Reply) (outputs : α → Prop) : Attempt α → Prop
  | ok {a : α} {t : State} (hm : MovesForward sends s t) (ha : outputs a) : Moves s sends negative outputs (.ok a t)
  | fail {c : Cause} {t : State} (hm : MovesForward sends s t) (hc : Coherent negative c) :
    Moves s sends negative outputs (.fail c t)
  | refuse (r : Refusal) : Moves s sends negative outputs (.refuse r)
  | stuck (f : Fault) : Moves s sends negative outputs (.stuck f)

/-- An attempt made after a part of the operation that moved forward. -/
theorem Attempt.Moves.after {α : Type} {s u : State} {sends : Prop} {negative : Reply} {outputs : α → Prop} {x : Attempt α}
    (hm : MovesForward sends s u) (hx : x.Moves u sends negative outputs) : x.Moves s sends negative outputs := by
  cases hx with
  | ok h ha => exact .ok (hm.trans h) ha
  | fail h hc => exact .fail (hm.trans h) hc
  | refuse r => exact .refuse r
  | stuck f => exact .stuck f

/-- Everything the event poll does before it parses a frame (R150): its first byte is taken with no wait. -/
theorem pollEvent_cases (m : Byte) (s : State) :
    (s.attached = false ∧ pollEvent m s = .fail .transportNotReady s) ∨
      (s.attached = true ∧ s.sync.rxq = [] ∧ pollEvent m s = .fail .noData s.sync) ∨
      (s.attached = true ∧ ∃ b later, s.sync.rxq = b :: later ∧ b ≠ s.hdrH ∧
        pollEvent m s = .fail .notHeader { s.sync with rxq := later }) ∨
      (s.attached = true ∧ ∃ later, s.sync.rxq = s.hdrH :: later ∧
        pollEvent m s = pollFrame m { s.sync with rxq := later }) := by
  cases ha : s.attached with
  | false => exact .inl ⟨rfl, by simp [pollEvent, ha]⟩
  | true =>
    refine .inr ?_
    cases hq : s.sync.rxq with
    | nil => exact .inl ⟨rfl, rfl, by simp [pollEvent, ha, hq]⟩
    | cons b later =>
      by_cases hb : b = s.hdrH
      · exact .inr (.inr ⟨rfl, later, by rw [hb], by simp [pollEvent, ha, hq, hb]⟩)
      · exact .inr (.inl ⟨rfl, b, later, rfl, hb, by simp [pollEvent, ha, hq, hb]⟩)

section Attempts
variable {sends : Prop} (s : State)

theorem sendRaw_moves (hs : sends) (bs : List Byte) : (sendRaw bs s).Moves s sends .failed fun _ => True := by
  rcases sendRaw_cases bs s with ⟨-, h⟩ | ⟨-, h⟩ <;> rw [h]
  · exact .ok (.transmit hs s bs) trivial
  · exact .fail (.refl s) (.inl rfl)

theorem writeRegister_moves (hs : sends) (addr : Byte) (data : List Byte) :
    (writeRegister addr data s).Moves s sends .failed fun _ => True := by
  rcases writeRegister_cases addr data s with ⟨-, h⟩ | ⟨-, -, h⟩ | ⟨-, -, h⟩ <;> rw [h]
  · exact .refuse _
  · exact .fail (.refl s) (.inl rfl)
  · exact .ok (.transmit hs s _) trivial

theorem writeVariable_moves (hs : sends) (addr : Word) (data : List (Byte × Byte)) :
    (writeVariable addr data s).Moves s sends .failed fun _ => True := by
  rcases writeVariable_cases addr data s with ⟨-, h⟩ | ⟨-, -, h⟩ | ⟨-, -, h⟩ <;> rw [h]
  · exact .refuse _
  · exact .fail (.refl s) (.inl rfl)
  · exact .ok (.transmit hs s _) trivial

theorem drainInput_moves : (drainInput s).Moves s sends .nothing fun _ => True := by
  rcases drainInput_cases s with ⟨-, h⟩ | ⟨-, -, h⟩ | ⟨-, -, h⟩ <;> rw [h]
  · exact .ok (.refl s) trivial
  · exact .ok (.drain s) trivial
  · exact .stuck _

theorem readExpectedReg_moves (cmd addr n : Byte) :
    (readExpectedReg cmd addr n s).Moves s sends .failed fun _ => True := by
  rcases readExpectedReg_cases cmd addr n s with
    ⟨-, h⟩ | ⟨-, -, h⟩ | ⟨-, -, _, _, _, _, -, h, hr⟩ | ⟨-, -, _, _, _, _, _, h, -, hr⟩ <;> rw [h]
  · exact .refuse _
  · exact .fail (.refl s) (.inl rfl)
  · exact .ok hr.movesForward trivial
  · exact .fail hr.movesForward (.inr rfl)

theorem readExpectedVar_moves (cmd : Byte) (addr : Word) (n : Byte) :
    (readExpectedVar cmd addr n s).Moves s sends .failed fun _ => True := by
  rcases readExpectedVar_cases cmd addr n s with
    ⟨-, h⟩ | ⟨-, -, h⟩ | ⟨-, -, _, _, _, _, -, h, hr⟩ | ⟨-, -, _, _, _, _, _, h, -, hr⟩ <;> rw [h]
  · exact .refuse _
  · exact .fail (.refl s) (.inl rfl)
  · exact .ok hr.movesForward trivial
  · exact .fail hr.movesForward (.inr rfl)

/-- A read sends its request after the drain and then only receives (R49). -/
theorem readRegister_moves (hs : sends) (addr n : Byte) :
    (readRegister addr n s).Moves s sends .failed fun _ => True := by
  rcases readRegister_cases addr n s with ⟨-, h⟩ | ⟨-, -, h⟩ | ⟨-, -, -, h⟩ | ⟨-, -, -, h⟩ <;> rw [h]
  · exact .refuse _
  · exact .fail (.refl s) (.inl rfl)
  · exact .stuck _
  · exact .after ((MovesForward.drain s).trans (.transmit hs _ _)) (readExpectedReg_moves _ _ _ _)

theorem readVariable_moves (hs : sends) (addr : Word) (n : Byte) :
    (readVariable addr n s).Moves s sends .failed fun _ => True := by
  rcases readVariable_cases addr n s with ⟨-, h⟩ | ⟨-, -, h⟩ | ⟨-, -, -, h⟩ | ⟨-, -, -, h⟩ <;> rw [h]
  · exact .refuse _
  · exact .fail (.refl s) (.inl rfl)
  · exact .stuck _
  · exact .after ((MovesForward.drain s).trans (.transmit hs _ _)) (readExpectedVar_moves _ _ _ _)

/-- The poll stores no more words than the frame declares (R31). -/
theorem pollFrame_moves (m : Byte) (ha : s.attached = true) :
    (pollFrame m s).Moves s sends .noEvent fun ev => ev.data.length ≤ ev.dataLength.toNat := by
  rcases pollFrame_cases m s ha with ⟨_, _, _, h, hr⟩ | ⟨_, _, _, _, h, -, hr⟩ | ⟨_, _, _, _, _, h, hlen, -, hr⟩ <;>
    rw [h]
  · exact .fail hr.movesForward (.inr (.inr (.inr (.inr rfl))))
  · exact .fail hr.movesForward (.inr (.inr (.inr (.inl rfl))))
  · exact .ok hr.movesForward hlen

theorem pollEvent_moves (m : Byte) :
    (pollEvent m s).Moves s sends .noEvent fun ev => ev.data.length ≤ ev.dataLength.toNat := by
  have popped {b : Byte} {later : List Byte} (hq : s.sync.rxq = b :: later) :
      MovesForward sends s { s.sync with rxq := later } := (MovesForward.sync s).trans (.dequeue (front := [b]) hq)
  rcases pollEvent_cases m s with ⟨-, h⟩ | ⟨-, -, h⟩ | ⟨-, _, _, hq, -, h⟩ | ⟨ha, _, hq, h⟩ <;> rw [h]
  · exact .fail (.refl s) (.inl rfl)
  · exact .fail (.sync s) (.inr (.inl rfl))
  · exact .fail (popped hq) (.inr (.inr (.inl rfl)))
  · exact .after (popped hq) (pollFrame_moves _ m ((sync_attached s).trans ha))

end Attempts

/-! ### Results -/

/-- A result that is a next state has moved forward from `s`, and its reply fits its cause. -/
def Advances (s : State) (sends : Prop) (r : Result) : Prop :=
  ∀ t, r = .next t → MovesForward sends s t ∧ Coherent t.reply t.cause

section Results
variable {s : State} {sends : Prop}

theorem advances_answer {t : State} {r : Reply} {c : Cause} (hm : MovesForward sends s t) (hc : Coherent r c) :
    Advances s sends (.next (t.answer r c)) := by
  rintro _ ⟨⟩
  exact ⟨hm.answer r c, hc⟩

theorem whenConstructed_advances {r : Result} (h : Advances s sends r) : Advances s sends (whenConstructed s r) :=
  fun t ht => h t (whenConstructed_next ht).2

/-- An attempt shown to the host, its failures as `negative`: a reply that can have every cause they have. -/
theorem deliver_advances {α : Type} {x : Attempt α} {bad negative : Reply} {outputs : α → Prop} {shown : α → Reply}
    (hx : x.Moves s sends bad outputs) (hbad : ∀ c, Coherent bad c → Coherent negative c)
    (hshown : ∀ a, outputs a → Coherent (shown a) .none) : Advances s sends (deliver negative shown x) := by
  cases hx with
  | ok hm ha => exact advances_answer hm (hshown _ ha)
  | fail hm hc => exact advances_answer hm (hbad _ hc)
  | refuse | stuck => exact nofun

/-- A failure collapsed into the byte 0 (R145, R179). -/
theorem coherent_byte_zero {c : Cause} (h : Coherent .failed c) : Coherent (.byte 0) c :=
  .inr ⟨rfl, h.imp_right .inr⟩

/-- A failure collapsed into the word 0 (R146, R148, R179). -/
theorem coherent_word_zero {c : Cause} (h : Coherent .failed c) : Coherent (.word 0) c := .inr ⟨rfl, h⟩

theorem causeCode_of_isMismatch {c : Cause} (h : c.isMismatch = true) : causeCode c = 2 := by
  cases c with
  | mismatch f => rfl
  | _ => cases h

/-- A reply that fits its cause fits its cause code: each row of R170's table. -/
theorem visible_of_coherent {r : Reply} {c : Cause} (h : Coherent r c) : Visible r (causeCode c) := by
  cases r with
  | failed =>
    rcases h with rfl | h
    · exact .inl rfl
    · rw [causeCode_of_isMismatch h]
      exact .inl rfl
  | noEvent =>
    rcases h with rfl | rfl | rfl | rfl | rfl
    · exact .inl rfl
    · rfl
    · rfl
    · rfl
    · exact .inl rfl
  | byte b =>
    rcases h with rfl | ⟨rfl, rfl | rfl | h⟩
    · nofun
    · exact .inr (.inl rfl)
    · rfl
    · rw [causeCode_of_isMismatch h]
      exact .inr (.inl rfl)
  | word w =>
    rcases h with rfl | ⟨rfl, rfl | h⟩
    · nofun
    · exact .inr (.inr (.inl rfl))
    · rw [causeCode_of_isMismatch h]
      exact .inr (.inr rfl)
  | nothing =>
    rcases h with rfl | rfl
    · nofun
    · exact .inr (.inr (.inr rfl))
  | event ev =>
    obtain ⟨rfl, -⟩ := h
    nofun
  | idle | success | bytePair | bytes | words | dateTime =>
    obtain rfl : c = .none := h
    nofun

theorem deliverSend_advances {x : Attempt Unit} (hx : x.Moves s sends .failed fun _ => True) :
    Advances s sends (deliverSend s x) :=
  whenConstructed_advances (deliver_advances hx (fun _ => id) fun _ _ => rfl)

theorem sendFrame_advances (hs : sends) (fits : Bool) (body : List Byte) : Advances s sends (sendFrame fits body s) := by
  refine whenConstructed_advances ?_
  split
  · exact deliver_advances (sendRaw_moves s hs _) (fun _ => id) fun _ _ => rfl
  · exact nofun

end Results

/-! ### Instructions, by kind -/

section Kinds
variable {i : Instr} {sends : Prop} (s : State)

theorem exec_send_advances (hk : i.kind = .send) (hs : sends) : Advances s sends (exec i s) := by
  cases i with
  | sendFrameHeader | sendByte | sendWord | sendBuffer => exact deliverSend_advances (sendRaw_moves s hs _)
  | writeRegister | writeRegisterByte | writeRegisterWord | setRTC =>
    exact deliverSend_advances (writeRegister_moves s hs _ _)
  | writeVariable | writeVariableWord => exact deliverSend_advances (writeVariable_moves s hs _ _)
  | fRW | fVW | fRRQ | fVRQ | fRWRtcSet => exact sendFrame_advances hs _ _
  | _ => cases hk

/-- A bare byte read answers 0 where it has a cause (R140, R171, R172). -/
theorem byteRead_coherent : Coherent (.byte (rbt s).byte) (byteReadCause s (rbt s)) := by
  unfold byteReadCause
  cases ha : s.attached with
  | false => exact .inr ⟨by rw [rbt_of_not_attached ha], .inl rfl⟩
  | true =>
    obtain ⟨_, _, ⟨-, -, hto⟩ | ⟨-, -, hb, hto⟩, -⟩ := rbt_received s ha <;> rw [hto]
    · exact .inl rfl
    · exact .inr ⟨hb, .inr (.inl rfl)⟩

/-- An operation that only receives moves forward without sending (R49). -/
theorem exec_receive_advances (hk : i.kind = .receive) : Advances s sends (exec i s) := by
  cases i with
  | readByteWithTimeout => exact whenConstructed_advances (advances_answer (rbt_movesForward s) (byteRead_coherent s))
  | drainInput =>
    refine whenConstructed_advances ?_
    split
    · exact deliver_advances (drainInput_moves s) (fun _ => id) fun _ _ => .inl rfl
    · exact advances_answer (.refl s) (.inr rfl)
  | readExpectedFrameReg =>
    exact whenConstructed_advances (deliver_advances (readExpectedReg_moves s _ _ _) (fun _ => id) fun _ _ => rfl)
  | readExpectedFrameVar =>
    exact whenConstructed_advances (deliver_advances (readExpectedVar_moves s _ _ _) (fun _ => id) fun _ _ => rfl)
  | pollEvent =>
    exact whenConstructed_advances (deliver_advances (pollEvent_moves s _) (fun _ => id) fun _ hlen => ⟨rfl, hlen⟩)
  | _ => cases hk

theorem exec_exchange_advances (hk : i.kind = .exchange) (hs : sends) : Advances s sends (exec i s) := by
  cases i with
  | readRegister | getRTC =>
    exact whenConstructed_advances (deliver_advances (readRegister_moves s hs _ _) (fun _ => id) fun _ _ => rfl)
  | readRegisterByte =>
    exact whenConstructed_advances
      (deliver_advances (readRegister_moves s hs _ _) (fun _ => coherent_byte_zero) fun _ _ => .inl rfl)
  | readRegisterWord =>
    exact whenConstructed_advances
      (deliver_advances (readRegister_moves s hs _ _) (fun _ => coherent_word_zero) fun _ _ => .inl rfl)
  | readVariable =>
    exact whenConstructed_advances (deliver_advances (readVariable_moves s hs _ _) (fun _ => id) fun _ _ => rfl)
  | readVariableWord =>
    exact whenConstructed_advances
      (deliver_advances (readVariable_moves s hs _ _) (fun _ => coherent_word_zero) fun _ _ => .inl rfl)
  | _ => cases hk

/-- A pure operation answers a value, never a failure (R95, R162). -/
theorem exec_codec_advances (hk : i.kind = .codec) : Advances s sends (exec i s) := by
  cases i with
  | encodeBCD | decodeBCD | getMonth | getDay | getWeek | getHour | getMinute | getSecond | bcd8 | packWord | getYear | w16 =>
    exact advances_answer (.refl s) (.inl rfl)
  | unpackWord | dateTimeFull | dateTimeDateOnly | setYear | setYearOffset | setMonth | setDay | setWeek | setHour
  | setMinute | setSecond | fromBCD | toBCD | dt7 => exact advances_answer (.refl s) rfl
  | _ => cases hk

theorem exec_setTimeout_advances (ms : Nat) : Advances s sends (exec (.setTimeout ms) s) := by
  rw [exec_setTimeout]
  exact whenConstructed_advances (advances_answer (.of_same rfl rfl rfl rfl rfl rfl) (.inl rfl))

/-- Every instruction but a construction, which starts `TXS` anew, and a frame of the device, which joins the queue, moves
forward; only the receiving ones are bound to send nothing. -/
theorem exec_advances (hc : i.kind ≠ .construct) (hd : i.kind ≠ .delivery) :
    Advances s (i.kind ≠ .receive) (exec i s) := by
  cases hk : i.kind with
  | construct => exact absurd hk hc
  | delivery => exact absurd hk hd
  | codec => exact exec_codec_advances s hk
  | send => exact exec_send_advances s hk nofun
  | receive => exact exec_receive_advances s hk
  | exchange => exact exec_exchange_advances s hk nofun
  | setTimeout =>
    obtain ⟨ms, rfl⟩ := eq_setTimeout_of_kind hk
    exact exec_setTimeout_advances s ms

end Kinds

/-! ### The invariant -/

section Inv
variable {s t : State}

/-- The invariant speaks of five fields only. -/
theorem State.Inv.of_same (h : s.Inv) (hreply : t.reply = s.reply) (hcause : t.cause = s.cause)
    (hcalls : t.rbtCalls = s.rbtCalls) (hwaits : t.rbtTimeouts = s.rbtTimeouts) (hopsel : t.opsel = s.opsel) : t.Inv := by
  unfold State.Inv
  rwa [hreply, hcause, hcalls, hwaits, hopsel]

/-- An answer that fits its cause, with as many waits counted as the invariant allows, has the invariant. -/
theorem State.Inv.of_coherent (h : s.Inv) (hc : Coherent t.reply t.cause)
    (hwaits : s.rbtTimeouts ≤ s.rbtCalls → t.rbtTimeouts ≤ t.rbtCalls) (hopsel : t.opsel = s.opsel) : t.Inv := by
  obtain ⟨-, -, hle, hvalid⟩ := h
  exact ⟨hc, visible_of_coherent hc, hwaits hle, hopsel ▸ hvalid⟩

/-- Every instruction keeps the invariant. -/
theorem State.Inv.exec {i : Instr} (h : s.Inv) (he : exec i s = .next t) : t.Inv := by
  have hopsel : t.opsel = s.opsel := (Scope.onlyConstructionWritesSession i s t he).1
  by_cases hc : i.kind = .construct
  · obtain ⟨hi, lo, channel, rfl⟩ := eq_construct_of_kind hc
    cases (exec_construct s hi lo channel).symm.trans he
    exact h.of_coherent (.inl rfl) id rfl
  by_cases hd : i.kind = .delivery
  · rcases exec_delivery s hd with ⟨-, received, hn⟩ | ⟨-, hn⟩ <;> cases hn.symm.trans he
    exact h.of_same rfl rfl rfl rfl rfl
  · obtain ⟨hm, hcoh⟩ := exec_advances s hc hd t he
    exact h.of_coherent hcoh hm.timeouts_le hopsel

end Inv

/-! ### Valid date-times -/

section Valid

/-- A clamped byte lies in the range it is clamped to (R100). -/
theorem clampByte_range (v : Byte) {lo hi : Nat} (h : lo ≤ hi) (h' : hi ≤ 255) :
    lo ≤ (clampByte v lo hi).toNat ∧ (clampByte v lo hi).toNat ≤ hi := by
  rw [clampByte_toNat v h h']
  omega

theorem clampByte_le (v : Byte) {hi : Nat} (h : hi ≤ 255) : (clampByte v 0 hi).toNat ≤ hi :=
  (clampByte_range v (Nat.zero_le hi) h).2

theorem clampYear_le (y : Word) : (clampYear y).toNat ≤ 99 := by
  rw [clampYear_toNat]
  omega

theorem dateTimeOf_valid (y : Word) (mo d w h mi s : Byte) : (dateTimeOf y mo d w h mi s).Valid :=
  ⟨clampYear_le y, clampByte_range mo (by decide) (by decide), clampByte_range d (by decide) (by decide),
    clampByte_le h (by decide), clampByte_le mi (by decide), clampByte_le s (by decide)⟩

theorem fromBCD_valid (b : DT7) : (fromBCD b).Valid :=
  ⟨clampByte_le _ (by decide), clampByte_range _ (by decide) (by decide), clampByte_range _ (by decide) (by decide),
    clampByte_le _ (by decide), clampByte_le _ (by decide), clampByte_le _ (by decide)⟩

variable {i : Instr} {s t : State} {d : DateTime}

/-- The date-time `getRTC` returns is decoded with clamping (R149). -/
theorem getRTC_dateTime (he : exec .getRTC s = .next t) (hd : t.reply = .dateTime d) : ∃ b, d = fromBCD b := by
  obtain ⟨-, hn⟩ := whenConstructed_next he
  rcases deliver_next hn with ⟨data, _, -, rfl⟩ | ⟨_, _, -, rfl⟩ <;> cases hd
  exact ⟨_, rfl⟩

/-- Each setter answers its operand with one field clamped into its range, or the week, which has no range (R101 to R108). -/
theorem exec_setter_valid {dt : DateTime} (hv : dt.Valid) {x : Byte} {y : Word}
    (hi : i ∈ [Instr.setYear dt y, .setYearOffset dt x, .setMonth dt x, .setDay dt x, .setWeek dt x, .setHour dt x,
      .setMinute dt x, .setSecond dt x]) :
    ∃ d : DateTime, d.Valid ∧ exec i s = .next (s.answer (.dateTime d) .none) := by
  obtain ⟨hy, hmo, hday, hh, hmi, hs⟩ := hv
  simp only [List.mem_cons, List.not_mem_nil, or_false] at hi
  rcases hi with rfl | rfl | rfl | rfl | rfl | rfl | rfl | rfl <;> refine ⟨_, ?_, rfl⟩
  · exact ⟨clampYear_le y, hmo, hday, hh, hmi, hs⟩
  · exact ⟨clampByte_le x (by decide), hmo, hday, hh, hmi, hs⟩
  · exact ⟨hy, clampByte_range x (by decide) (by decide), hday, hh, hmi, hs⟩
  · exact ⟨hy, hmo, clampByte_range x (by decide) (by decide), hh, hmi, hs⟩
  · exact ⟨hy, hmo, hday, hh, hmi, hs⟩
  · exact ⟨hy, hmo, hday, clampByte_le x (by decide), hmi, hs⟩
  · exact ⟨hy, hmo, hday, hh, clampByte_le x (by decide), hs⟩
  · exact ⟨hy, hmo, hday, hh, hmi, clampByte_le x (by decide)⟩

end Valid

end Sys2Proof.Machine
end

section
/-! The obligations of the machine's state: the streams, the invariant and the validity of date-times. -/

namespace Sys2Proof.StateLaws

open Sys2Proof Sys2Proof.Machine

/-- Settles O57: a construction and a frame of the device by their equations, every other instruction because it moves forward. -/
theorem streamsOnlyMoveForward : Obligations.StreamsOnlyMoveForward := by
  intro i s t he
  by_cases hc : i.kind = .construct
  · obtain ⟨hi, lo, channel, rfl⟩ := eq_construct_of_kind hc
    cases (exec_construct s hi lo channel).symm.trans he
    exact ⟨absurd hc, fun _ => ⟨[], rfl⟩, nofun, le_rfl, rfl⟩
  by_cases hd : i.kind = .delivery
  · rcases exec_delivery s hd with ⟨-, received, hn⟩ | ⟨-, hn⟩ <;> cases hn.symm.trans he
    exact ⟨fun _ => ⟨[], (List.append_nil _).symm⟩, absurd hd, fun _ => rfl, le_rfl, rfl⟩
  · obtain ⟨hm, -⟩ := exec_advances s hc hd t he
    exact ⟨fun _ => hm.sent, fun _ => hm.taken, fun hr => hm.unsent (not_not_intro hr), hm.clock_le, hm.requests_eq⟩

/-- Settles O59: the environment's turn and the taking of a request touch nothing the invariant speaks of, and every instruction
keeps it. -/
theorem stepKeepsInvariant : Obligations.StepKeepsInvariant := by
  intro s t h hstep
  cases hreq : s.requests with
  | nil =>
    cases (Laws.step_of_idle hreq).symm.trans hstep
    exact h.of_same (sync_reply s) (sync_cause s) (sync_rbtCalls s) (sync_rbtTimeouts s) (sync_opsel s)
  | cons p rest =>
    cases hdec : decode s.opsel p with
    | error e => cases (Laws.step_of_decode_error hreq hdec).symm.trans hstep
    | ok i =>
      have hs : ({ s with requests := rest } : State).Inv := h.of_same rfl rfl rfl rfl rfl
      exact hs.exec ((Laws.step_of_decode_ok hreq hdec).symm.trans hstep)

/-- Settles O60: nothing has been answered or read yet, and R81's default map is a numbering. -/
theorem resetHasInvariant : Obligations.ResetHasInvariant :=
  ⟨rfl, visible_of_coherent rfl, le_rfl, opselDefault_valid⟩

/-- Settles O18: every field that has a range is clamped into it, or is an operand's. -/
theorem producedDateTimesAreValid : Obligations.ProducedDateTimesAreValid := by
  refine ⟨fun i s t d he hd hi => ?_, fun dt x y s t d i hv hi he hd => ?_⟩
  · rcases hi with ⟨y, mo, da, w, h, mi, sec, rfl⟩ | ⟨y, mo, da, rfl⟩ | ⟨b, rfl⟩ | rfl
    · cases he
      cases hd
      exact dateTimeOf_valid y mo da w h mi sec
    · cases he
      cases hd
      exact dateTimeOf_valid y mo da _ _ _ _
    · cases he
      cases hd
      exact fromBCD_valid b
    · obtain ⟨b, rfl⟩ := getRTC_dateTime he hd
      exact fromBCD_valid b
  · obtain ⟨d', hv', he'⟩ := exec_setter_valid (s := s) hv hi
    cases he'.symm.trans he
    cases hd
    exact hv'

end Sys2Proof.StateLaws
end

section
/-! SUPPORT. The data forms that frames are made of: lengths cut to a byte, BCD buffers, and words as byte pairs. -/

namespace Sys2Proof.Machine

/-- A length survives being cut to a byte exactly if it fits (R64). -/
theorem trunc8_toNat_eq_iff (n : Nat) : (trunc8 n).toNat = n ↔ n < 256 := by
  rw [trunc8_toNat]
  omega

theorem trunc8_toNat_of_lt {n : Nat} (h : n < 256) : (trunc8 n).toNat = n := (trunc8_toNat_eq_iff n).mpr h

/-- The value of two nibbles fits a byte (R60). -/
theorem nibblesValue_toNat (tens ones : BitVec 4) : (nibblesValue tens ones).toNat = ones.toNat + 10 * tens.toNat := by
  have ht := tens.isLt
  have ho := ones.isLt
  exact trunc8_toNat_of_lt (by omega)

/-- A buffer is determined by its bytes (R62). -/
theorem dt7Bytes_injective : Function.Injective dt7Bytes := by
  rintro ⟨_, _, _, _, _, _, _⟩ ⟨_, _, _, _, _, _, _⟩ h
  simpa [dt7Bytes] using h

/-- A word as its byte pair, the high byte first (R61). -/
def wordPair (w : Word) : Byte × Byte := (highByte w, lowByte w)

/-- Words reach the wire as their byte pairs. -/
theorem onWire_map_wordPair (ws : List Word) : onWire (ws.map wordPair) = wordBytes ws := by
  rw [onWire_eq_pairBytes, wordBytes_eq_pairBytes]
  rfl

theorem pairValues_map_wordPair (ws : List Word) : pairValues (ws.map wordPair) = ws.map BitVec.toNat := by
  rw [pairValues, List.map_map]
  refine List.map_congr_left fun w _ => ?_
  simp [wordPair]
  omega

theorem map_packWord_map_wordPair (ws : List Word) :
    (ws.map wordPair).map (fun p => packWord p.1 p.2) = ws := by
  simp [wordPair, Function.comp_def]

/-- The RTC set frame is the register write frame of the marker and the seven bytes to the commit address (R72). -/
theorem bodyRW_rtcSet (time : DT7) :
    bodyRW Config.rtcCommitAddr (rtcApplyMarker :: dt7Bytes time) = bodyRtcSet time := rfl

end Sys2Proof.Machine
end

section
/-! SUPPORT. What decodes is well formed: an operation has no length to fit, and a frame's length byte was compared with its
length. -/

namespace Sys2Proof.Laws.EncodeDecode

open Sys2Proof Sys2Proof.Machine

/-- Only a frame has a length that must fit a byte: whatever is encoded as an operation is well formed. -/
theorem wellFormed_of_encode_opsel {m : OpselMap} {i : Instr} (h : (encode m i).format = .opsel) : i.WellFormed := by
  cases i with
  | fRW | fRRS | fVW | fVRS | fEV => cases h
  | _ => rfl

/-- Operands of an operation decode to an operation, which encodes as one (R82); a timeout has no length either. -/
theorem decodeOperands_wellFormed {op : Operation} {ops : List Byte} {i : Instr} (h : decodeOperands op ops = .ok i) :
    i.WellFormed := by
  by_cases hi : ∃ ms, i = .setTimeout ms
  · obtain ⟨ms, rfl⟩ := hi
    rfl
  · have he := encode_of_decodeOperands opselDefault h fun ms hms => hi ⟨ms, hms⟩
    exact wellFormed_of_encode_opsel (congrArg Packet.format he)

section Frames
variable {bytes : List Byte} {i : Instr}

theorem decodeRW_wellFormed (h : decodeRW bytes = .ok i) : i.WellFormed := by
  obtain ⟨a, data, rfl, rfl⟩ := decodeRW_ok h
  have hlen : (trunc8 (2 + data.length)).toNat = 2 + data.length := by
    by_contra hn
    simp only [decodeRW, bodyRW, ne_eq, not_true_eq_false, if_false, if_pos hn] at h
    cases h
  rw [trunc8_toNat_eq_iff] at hlen
  exact decide_eq_true (by omega)

theorem decodeRRS_wellFormed (h : decodeRRS bytes = .ok i) : i.WellFormed := by
  obtain ⟨hi, lo, a, data, rfl, rfl⟩ := decodeRRS_ok h
  have hlen : (trunc8 (data.length + 3)).toNat = data.length + 3 := by
    by_contra hn
    simp only [decodeRRS, frameRRS, ne_eq, not_true_eq_false, if_false, if_pos (Or.inr hn)] at h
    cases h
  rw [trunc8_toNat_eq_iff] at hlen
  exact decide_eq_true (by omega)

theorem decodeVW_wellFormed (h : decodeVW bytes = .ok i) : i.WellFormed := by
  obtain ⟨a, ps, rfl, rfl⟩ := decodeVW_ok h
  have hlen : (trunc8 (3 + 2 * ps.length)).toNat = 3 + 2 * ps.length := by
    by_contra hn
    simp only [decodeVW, bodyVW, pairsOf_pairBytes, ne_eq, not_true_eq_false, if_false, if_pos hn] at h
    cases h
  rw [trunc8_toNat_eq_iff] at hlen
  exact decide_eq_true (by omega)

/-- The layout that responses and events share holds at most 125 words. -/
theorem decodeWords_length {f : Byte → Byte → Byte → Word → List Word → Except DecodeError Instr} {hi lo c : Byte}
    {a : Word} {ws : List Word} (h : decodeWords f (frameWords hi lo c a ws) = .ok i) : ws.length ≤ 125 := by
  have hlen : (trunc8 (4 + 2 * ws.length)).toNat = 4 + 2 * ws.length := by
    by_contra hn
    simp only [decodeWords, frameWords, wordsOf_wordBytes, if_pos (Or.inr hn)] at h
    cases h
  rw [trunc8_toNat_eq_iff] at hlen
  omega

theorem decodeVRS_wellFormed (h : decodeVRS bytes = .ok i) : i.WellFormed := by
  obtain ⟨hi, lo, a, ws, rfl, rfl⟩ := decodeVRS_ok h
  exact decide_eq_true (decodeWords_length h)

theorem decodeEV_wellFormed (h : decodeEV bytes = .ok i) : i.WellFormed := by
  obtain ⟨hi, lo, c, a, ws, rfl, rfl⟩ := decodeEV_ok h
  exact decide_eq_true (decodeWords_length h)

end Frames

/-- Whatever decodes is well formed, format by format. -/
theorem wellFormed_of_decode {m : OpselMap} {p : Packet} {i : Instr} (h : decode m p = .ok i) : i.WellFormed := by
  obtain ⟨format, bytes⟩ := p
  cases format with
  | opsel =>
    obtain ⟨_, _, _, -, -, hops⟩ := decode_opsel_ok h
    exact decodeOperands_wellFormed hops
  | fRW => exact decodeRW_wellFormed h
  | fRRS => exact decodeRRS_wellFormed h
  | fVW => exact decodeVW_wellFormed h
  | fVRS => exact decodeVRS_wellFormed h
  | fEV => exact decodeEV_wellFormed h
  | fRRQ =>
    obtain ⟨_, _, -, rfl⟩ := decodeRRQ_ok h
    rfl
  | fVRQ =>
    obtain ⟨_, _, -, rfl⟩ := decodeVRQ_ok h
    rfl
  | fRWRtcSet =>
    obtain ⟨_, -, rfl⟩ := decodeRtcSet_ok h
    rfl
  | bcd8 =>
    obtain ⟨_, -, rfl⟩ := take1_ok h
    rfl
  | w16 =>
    obtain ⟨_, _, -, rfl⟩ := take2_ok h
    rfl
  | dt7 =>
    obtain ⟨_, -, rfl⟩ := takeDT7_ok h
    rfl

end Sys2Proof.Laws.EncodeDecode
end

section
/-! SUPPORT. The frames of spec/30_encoding.md on the streams: what a frame instruction does in each case, how the write
operations come to the same frames, and that a frame of the device at the head of the queue is what the parser expects. -/

namespace Sys2Proof.Machine

/-! ### Frames of the block -/

section Send
variable {s : State}

/-- A frame of the block that fits goes out behind the session's header bytes (R63, R75). -/
theorem sendFrame_of_attached {fits : Bool} (hc : s.constructed = true) (ha : s.attached = true) (hf : fits = true)
    (body : List Byte) :
    sendFrame fits body s = .next ((s.transmit (s.hdrH :: s.hdrL :: body)).answer .success .none) := by
  rw [sendFrame, whenConstructed_of_constructed _ hc, if_pos hf, sendRaw_of_attached ha, deliver_ok]

theorem sendFrame_of_overlong {fits : Bool} (hc : s.constructed = true) (hf : fits = false) (body : List Byte) :
    sendFrame fits body s = .refused .lengthOverflow := by
  subst hf
  exact whenConstructed_of_constructed _ hc

/-- An operation that answers as one raw write of the frame's bytes does, or is refused where the frame is, is the frame. -/
theorem deliverSend_eq_sendFrame {fits : Bool} {body : List Byte} {x : Attempt Unit}
    (hfits : fits = true → x = sendRaw (s.hdrH :: s.hdrL :: body) s)
    (hover : fits = false → x = .refuse .lengthOverflow) : deliverSend s x = sendFrame fits body s := by
  cases fits with
  | false => rw [hover rfl]; rfl
  | true => rw [hfits rfl]; rfl

theorem writeRegister_of_overlong (addr : Byte) {data : List Byte} (h : 253 < data.length) :
    writeRegister addr data s = .refuse .lengthOverflow := if_pos h

theorem writeVariable_of_overlong (addr : Word) {data : List (Byte × Byte)} (h : 126 < data.length) :
    writeVariable addr data s = .refuse .lengthOverflow := if_pos h

/-- `writeRegister` within bounds is one raw write, with or without a channel (R124). -/
theorem writeRegister_eq_sendRaw (addr : Byte) {data : List Byte} (h : data.length ≤ 253) :
    writeRegister addr data s = sendRaw (s.hdrH :: s.hdrL :: bodyRW addr data) s := by
  rcases writeRegister_cases addr data s with ⟨hn, -⟩ | ⟨-, ha, hw⟩ | ⟨-, ha, hw⟩
  · omega
  · rw [hw, sendRaw_of_not_attached ha]
  · rw [hw, sendRaw_of_attached ha]

/-- `writeVariable` within bounds is one raw write, with or without a channel (R127). -/
theorem writeVariable_eq_sendRaw (addr : Word) {data : List (Byte × Byte)} (h : data.length ≤ 126) :
    writeVariable addr data s = sendRaw (s.hdrH :: s.hdrL :: bodyVW addr data) s := by
  rcases writeVariable_cases addr data s with ⟨hn, -⟩ | ⟨-, ha, hw⟩ | ⟨-, ha, hw⟩
  · omega
  · rw [hw, sendRaw_of_not_attached ha]
  · rw [hw, sendRaw_of_attached ha]

theorem execWriteRegister_eq_execFRW (addr : Byte) (data : List Byte) (s : State) :
    execWriteRegister addr data s = execFRW addr data s :=
  deliverSend_eq_sendFrame (fun h => writeRegister_eq_sendRaw addr (of_decide_eq_true h))
    fun h => writeRegister_of_overlong addr (not_le.mp (of_decide_eq_false h))

theorem execWriteVariable_eq_execFVW (addr : Word) (data : List (Byte × Byte)) (s : State) :
    execWriteVariable addr data s = execFVW addr data s :=
  deliverSend_eq_sendFrame (fun h => writeVariable_eq_sendRaw addr (of_decide_eq_true h))
    fun h => writeVariable_of_overlong addr (not_le.mp (of_decide_eq_false h))

theorem execSetRTC_eq_execFRWRtcSet (d : DateTime) (s : State) :
    execSetRTC d s = execFRWRtcSet (toBCD d) s := by
  refine deliverSend_eq_sendFrame (fun _ => ?_) nofun
  rw [writeRegister_eq_sendRaw _ (by simp [dt7Bytes]), bodyRW_rtcSet]

end Send

/-! ### Frames of the device -/

/-- What a frame of the device does within its bound: it joins the queue at the tail (R28). -/
theorem receiveFrame_of_fits {fits : Bool} (hf : fits = true) (frame : List Byte) (s : State) :
    receiveFrame fits frame s = .next { s with rxq := s.rxq ++ frame } := if_pos hf

/-- The layout that responses and events share, as byte pairs behind its seven fields (R70, R71). -/
theorem frameWords_eq_onWire (h l c : Byte) (addr : Word) (ws : List Word) :
    frameWords h l c addr ws =
      [h, l, trunc8 (4 + 2 * ws.length), c, highByte addr, lowByte addr, trunc8 ws.length] ++
        onWire (ws.map wordPair) := by
  rw [onWire_map_wordPair]
  rfl

/-- A frame of words within the bound: what its length and count bytes say, and the values its pairs carry. -/
theorem frameWords_fields (h l c : Byte) (addr : Word) {ws : List Word} (hw : ws.length ≤ 125) :
    ∃ (len ah al count : Byte) (pairs : List (Byte × Byte)), len.toNat = 4 + ws.length * 2 ∧
      ah.toNat = addr.toNat / 256 ∧ al.toNat = addr.toNat % 256 ∧ count.toNat = ws.length ∧
      pairValues pairs = ws.map BitVec.toNat ∧
      frameWords h l c addr ws = [h, l, len, c, ah, al, count] ++ onWire pairs := by
  refine ⟨_, _, _, _, ws.map wordPair, ?_, highByte_toNat addr, lowByte_toNat addr, trunc8_toNat_of_lt (by omega),
    pairValues_map_wordPair ws, frameWords_eq_onWire h l c addr ws⟩
  rw [trunc8_toNat_of_lt (by omega), Nat.mul_comm]

/-! ### A delivered frame is parsed -/

/-- Bytes that stand at the head of the queue are what as many byte reads return. -/
theorem Queued.readBytes_eq {s : State} {xs : List Byte} (h : Queued s xs) :
    Machine.readBytes xs.length s = (xs, (Machine.readBytes xs.length s).2) :=
  Prod.ext (Queued.readBytes (ys := []) (by rwa [List.append_nil])).1 rfl

/-- A frame of the device that was delivered to an empty queue fitted its bound, stands there to be read, and left the session as
it was. -/
theorem receiveFrame_queued {fits : Bool} {frame : List Byte} {s t : State} (ha : s.attached = true)
    (hT : 1 ≤ s.timeoutMs) (hq : s.rxq = []) (h : receiveFrame fits frame s = .next t) :
    fits = true ∧ SameSession s t ∧ Queued t frame := by
  unfold receiveFrame at h
  split at h <;> cases h
  exact ⟨‹_›, SameSession.refl s, Queued.of_rxq (q := []) ha hT (by simp [hq])⟩

/-- The register mode reader returns the data of the response it finds queued (R67, R142). -/
theorem Queued.readExpectedReg_ok {s : State} {addr n : Byte} {data : List Byte} (hd : data.length = n.toNat)
    (hn : data.length ≤ 252) (h : Queued s (frameRRS s.hdrH s.hdrL addr data)) :
    ∃ u, readExpectedReg 0x81 addr n s = .ok data u := by
  have hlen : (trunc8 (data.length + 3)).toNat = n.toNat + 3 := by rw [trunc8_toNat_of_lt (by omega), hd]
  have hcount : (trunc8 data.length).toNat = n.toNat := by rw [trunc8_toNat_of_lt (by omega), hd]
  exact ⟨_, readExpectedReg_of_readBytes
    (good := [s.hdrH, s.hdrL, trunc8 (data.length + 3), 0x81, addr, trunc8 data.length]) h.1 (hd ▸ hn) hd
    (by simp only [expectedReg, List.map_cons, List.map_nil, hlen, hcount]) h.readBytes_eq⟩

/-- The variable mode reader returns the words of the response it finds queued (R70, R143). -/
theorem Queued.readExpectedVar_ok {s : State} {addr : Word} {n : Byte} {ws : List Word} (hd : ws.length = n.toNat)
    (hn : ws.length ≤ 125) (h : Queued s (frameWords s.hdrH s.hdrL Config.cmdVarRead addr ws)) :
    ∃ u, readExpectedVar Config.cmdVarRead addr n s = .ok ws u := by
  have hlen : (trunc8 (4 + 2 * ws.length)).toNat = 2 * n.toNat + 4 := by
    rw [trunc8_toNat_of_lt (by omega), hd, Nat.add_comm]
  have hcount : (trunc8 ws.length).toNat = n.toNat := by rw [trunc8_toNat_of_lt (by omega), hd]
  have hread := h.readBytes_eq
  rw [frameWords_eq_onWire] at hread
  have hok := readExpectedVar_of_readBytes (cmd := Config.cmdVarRead) (addr := addr) (n := n) h.1 (hd ▸ hn)
    (by rw [List.length_map, hd]) (by simp only [expectedVar, List.map_cons, List.map_nil, hlen, hcount]) hread
  rw [map_packWord_map_wordPair] at hok
  exact ⟨_, hok⟩

/-- A poll that finds the session's first header byte goes on with the bytes queued behind it (R150). -/
theorem Queued.pollEvent_eq_pollFrame {s : State} {xs : List Byte} (m : Byte) (h : Queued s (s.hdrH :: xs)) :
    ∃ t, t.hdrL = s.hdrL ∧ Queued t xs ∧ pollEvent m s = pollFrame m t := by
  obtain ⟨ha, hT, q, hq⟩ := h
  refine ⟨{ s.sync with rxq := xs ++ q }, sync_hdrL s, ?_, ?_⟩
  · exact Queued.of_rxq ((sync_attached s).trans ha) (hT.trans_eq (sync_timeoutMs s).symm) rfl
  · simp [pollEvent, ha, hq]

/-- The poll returns the event it finds queued, its words cut at `maxWords` (R71, R150). -/
theorem Queued.pollEvent_ok {s : State} {cmd n : Byte} (m : Byte) {addr : Word} {ws : List Word}
    (hd : ws.length = n.toNat) (hn : ws.length ≤ 125) (h : Queued s (frameWords s.hdrH s.hdrL cmd addr ws)) :
    ∃ u, pollEvent m s = .ok ⟨cmd, addr, n, ws.take m.toNat⟩ u := by
  have hlen : (trunc8 (4 + 2 * ws.length)).toNat = 4 + 2 * n.toNat := by rw [trunc8_toNat_of_lt (by omega), hd]
  have hcount : trunc8 ws.length = n := (Laws.EncodeDecode.eq_trunc8 hd.symm).symm
  rw [frameWords_eq_onWire, hcount] at h
  obtain ⟨t, hL, hqueued, hpoll⟩ := h.pollEvent_eq_pollFrame m
  rw [pollFrame_of_readBytes (.inl hL.symm) (by rw [List.length_map, hd]) hqueued.readBytes_eq, if_pos hlen,
    packWord_bytes, map_packWord_map_wordPair] at hpoll
  exact ⟨_, hpoll⟩

theorem whenConstructed_deliver_ok {α : Type} {s u : State} {x : Attempt α} {neg : Reply} {shown : α → Reply} {a : α}
    (hc : s.constructed = true) (hx : x = .ok a u) :
    whenConstructed s (deliver neg shown x) = .next (u.answer (shown a) .none) := by
  rw [whenConstructed_of_constructed _ hc, hx, deliver_ok]

/-! ### Operands beyond the bounds -/

section Overlong
variable {s : State}

/-- An operation whose attempt is refused is refused (R174). -/
theorem whenConstructed_deliver_refuse {α : Type} {x : Attempt α} {neg : Reply} {shown : α → Reply} {r : Refusal}
    (hc : s.constructed = true) (hx : x = .refuse r) : whenConstructed s (deliver neg shown x) = .refused r := by
  rw [whenConstructed_of_constructed _ hc, hx, deliver_refuse]

theorem readExpectedReg_of_overlong (cmd addr : Byte) {n : Byte} (h : 252 < n.toNat) :
    readExpectedReg cmd addr n s = .refuse .lengthOverflow := if_pos h

theorem readExpectedVar_of_overlong (cmd : Byte) (addr : Word) {n : Byte} (h : 125 < n.toNat) :
    readExpectedVar cmd addr n s = .refuse .lengthOverflow := if_pos h

theorem readRegister_of_overlong (addr : Byte) {n : Byte} (h : 252 < n.toNat) :
    readRegister addr n s = .refuse .lengthOverflow := if_pos h

theorem readVariable_of_overlong (addr : Word) {n : Byte} (h : 125 < n.toNat) :
    readVariable addr n s = .refuse .lengthOverflow := if_pos h

theorem exec_delivery_of_overlong {i : Instr} (hk : i.kind = .delivery) (h : ¬ i.InBounds) :
    exec i s = .refused .lengthOverflow := by
  rcases exec_delivery s hk with ⟨hb, -⟩ | ⟨-, he⟩
  · exact absurd hb h
  · exact he

/-- Every instruction whose operands are beyond its bound is refused, in every constructed session (R64, R174). -/
theorem exec_of_overlong {i : Instr} (hc : s.constructed = true) (h : ¬ i.InBounds) :
    exec i s = .refused .lengthOverflow := by
  cases i with
  | writeRegister addr data =>
    exact whenConstructed_deliver_refuse hc (writeRegister_of_overlong addr (not_le.mp h))
  | writeVariable addr data =>
    exact whenConstructed_deliver_refuse hc (writeVariable_of_overlong addr (not_le.mp h))
  | readRegister addr n => exact whenConstructed_deliver_refuse hc (readRegister_of_overlong addr (not_le.mp h))
  | readVariable addr n => exact whenConstructed_deliver_refuse hc (readVariable_of_overlong addr (not_le.mp h))
  | readExpectedFrameReg cmd addr n =>
    exact whenConstructed_deliver_refuse hc (readExpectedReg_of_overlong cmd addr (not_le.mp h))
  | readExpectedFrameVar cmd addr n =>
    exact whenConstructed_deliver_refuse hc (readExpectedVar_of_overlong cmd addr (not_le.mp h))
  | fRW | fVW => exact sendFrame_of_overlong hc (decide_eq_false (p := _ ≤ _) h) _
  | fRRS | fVRS | fEV => exact exec_delivery_of_overlong rfl h
  | _ => exact absurd trivial h

end Overlong

end Sys2Proof.Machine
end

section
/-! The obligations of the encoding: what decodes, the data formats, and the frames on both streams. -/

namespace Sys2Proof.Encoding

open Sys2Proof Sys2Proof.Machine

/-- Settles O3: a frame's length byte was compared with its length, and no operation has a length to fit. -/
theorem decodedIsWellFormed : Obligations.DecodedIsWellFormed :=
  fun _ _ _ => Laws.EncodeDecode.wellFormed_of_decode

/-- Settles O10, by the value of each data form. -/
theorem dataFormatValues : Obligations.DataFormatValues := by
  refine ⟨fun tens ones s => ⟨_, rfl, nibblesValue_toNat tens ones⟩,
    fun high low s => ⟨_, rfl, packWord_toNat high low⟩, fun b s => ⟨_, rfl, ?_⟩⟩
  simp only [dt7Bytes, List.map_cons, List.map_nil, decodeBCD_toNat]

/-- Settles O23: each frame fits, so it goes out behind the header bytes; its body is its table's. -/
theorem blockFramesGoOut : Obligations.BlockFramesGoOut := by
  intro s hc ha
  refine ⟨fun addr data hd => ?_, fun addr count => ?_, fun addr data hd => ?_, fun addr count => ?_, fun b => ?_⟩
  · exact ⟨_, trunc8_toNat_of_lt (by omega), sendFrame_of_attached hc ha (decide_eq_true hd) _⟩
  · exact sendFrame_of_attached hc ha rfl _
  · rw [onWire_eq_pairBytes]
    exact ⟨_, _, _, trunc8_toNat_of_lt (by omega), highByte_toNat addr, lowByte_toNat addr,
      sendFrame_of_attached hc ha (decide_eq_true hd) _⟩
  · exact ⟨_, _, highByte_toNat addr, lowByte_toNat addr, sendFrame_of_attached hc ha rfl _⟩
  · exact sendFrame_of_attached hc ha rfl _

/-- Settles O26: each write operation is one raw write of its frame, refused where the frame is; the bytes that `toBCD` answers
determine the buffer of the RTC set frame. -/
theorem writesAreTheirFormats : Obligations.WritesAreTheirFormats := by
  refine fun s => ⟨fun addr data => execWriteRegister_eq_execFRW addr data s,
    fun addr data => execWriteVariable_eq_execFVW addr data s, fun d b h => ?_⟩
  have hbytes : dt7Bytes (toBCD d) = dt7Bytes b := by
    injection h with hstate
    exact Reply.bytes.inj (congrArg State.reply hstate)
  rw [← dt7Bytes_injective hbytes]
  exact execSetRTC_eq_execFRWRtcSet d s

/-- Settles O47: a frame within its bound joins the queue whole, and its length and count bytes say its length. -/
theorem deviceFramesReachQueue : Obligations.DeviceFramesReachQueue := by
  refine fun s => ⟨fun h l addr data hd => ?_, fun h l addr words hw => ?_, fun h l cmd addr words hw => ?_⟩
  · exact ⟨_, _, trunc8_toNat_of_lt (by omega), trunc8_toNat_of_lt (by omega),
      receiveFrame_of_fits (decide_eq_true hd) _ s⟩
  · obtain ⟨len, ah, al, count, pairs, hlen, hah, hal, hcount, hpairs, hframe⟩ :=
      frameWords_fields h l Config.cmdVarRead addr hw
    exact ⟨len, ah, al, count, pairs, hlen.trans (Nat.add_comm _ _), hah, hal, hcount, hpairs,
      hframe ▸ receiveFrame_of_fits (decide_eq_true hw) _ s⟩
  · obtain ⟨len, ah, al, count, pairs, hlen, hah, hal, hcount, hpairs, hframe⟩ := frameWords_fields h l cmd addr hw
    exact ⟨len, ah, al, count, pairs, hlen, hah, hal, hcount, hpairs,
      hframe ▸ receiveFrame_of_fits (decide_eq_true hw) _ s⟩

/-- Settles O48: a delivered frame was within its bound and stands at the head of the empty queue, where the parser finds
every field it expects. -/
theorem deliveredFramesAreParsed : Obligations.DeliveredFramesAreParsed := by
  intro s t hc ha hT hq
  refine ⟨fun addr n data hd he => ?_, fun addr n words hd he => ?_, fun cmd m addr n words hd he => ?_⟩
  · obtain ⟨hfits, ⟨hH, hL, -, -, hcon, -⟩, hqueued⟩ := receiveFrame_queued ha hT hq he
    rw [← hH, ← hL] at hqueued
    obtain ⟨u, hu⟩ := hqueued.readExpectedReg_ok hd (of_decide_eq_true hfits)
    exact ⟨_, whenConstructed_deliver_ok (hcon.trans hc) hu, rfl⟩
  · obtain ⟨hfits, ⟨hH, hL, -, -, hcon, -⟩, hqueued⟩ := receiveFrame_queued ha hT hq he
    rw [← hH, ← hL] at hqueued
    obtain ⟨u, hu⟩ := hqueued.readExpectedVar_ok hd (of_decide_eq_true hfits)
    exact ⟨_, whenConstructed_deliver_ok (hcon.trans hc) hu, rfl⟩
  · obtain ⟨hfits, ⟨hH, hL, -, -, hcon, -⟩, hqueued⟩ := receiveFrame_queued ha hT hq he
    rw [← hH, ← hL] at hqueued
    obtain ⟨u, hu⟩ := hqueued.pollEvent_ok m hd (of_decide_eq_true hfits)
    exact ⟨_, whenConstructed_deliver_ok (hcon.trans hc) hu, rfl⟩

/-- Settles O53, from the bound of each instruction that has one. -/
theorem overlongIsRefused : Obligations.OverlongIsRefused :=
  fun _ _ hc h => exec_of_overlong hc h

/-- Settles O4, by evaluating the decoder on each packet. -/
theorem specWordsDecode : Obligations.SpecWordsDecode :=
  ⟨rfl, rfl, rfl, rfl, rfl, rfl, rfl, rfl, rfl, rfl⟩

end Sys2Proof.Encoding
end

section
/-! SUPPORT. ByteCodec (spec/40_bytecodec.md): what each operation answers in every state, and that the two BCD conversions are
inverse to each other between the values up to 99 and the bytes whose nibbles are decimal digits. -/

namespace Sys2Proof.Machine

/-! ### What an operation answers -/

section Answers
variable (s : State)

theorem exec_encodeBCD (v : Byte) : exec (.encodeBCD v) s = .next (s.answer (.byte (encodeBCD v)) .none) := rfl

theorem exec_decodeBCD (b : Byte) : exec (.decodeBCD b) s = .next (s.answer (.byte (decodeBCD b)) .none) := rfl

theorem exec_packWord (high low : Byte) :
    exec (.packWord high low) s = .next (s.answer (.word (packWord high low)) .none) := rfl

theorem exec_unpackWord (w : Word) :
    exec (.unpackWord w) s = .next (s.answer (.bytePair (highByte w) (lowByte w)) .none) := rfl

end Answers

/-- The reply of a pure operation is chosen before the state is (R95, R162): no arm of these instructions reads the state. -/
theorem exec_codec_reply {i : Instr} (h : i.kind = .codec) : ∃ r : Reply, ∀ s : State, exec i s = .next (s.answer r .none) := by
  cases i with
  | encodeBCD | decodeBCD | packWord | unpackWord | dateTimeFull | dateTimeDateOnly | setYear | setYearOffset | setMonth
  | setDay | setWeek | setHour | setMinute | setSecond | toBCD | fromBCD | getYear | getMonth | getDay | getWeek
  | getHour | getMinute | getSecond | bcd8 | w16 | dt7 => exact ⟨_, fun _ => rfl⟩
  | _ => cases h

/-! ### BCD -/

/-- Above 99 the answer is the open function's (R90, D8). -/
theorem encodeBCD_of_gt {v : Byte} (h : 99 < v.toNat) : encodeBCD v = Config.encBcdOor v := by
  rw [encodeBCD, if_neg (Nat.not_le.mpr h)]

/-- Both nibbles of an encoded value are decimal digits. -/
theorem encodeBCD_digits {v : Byte} (h : v.toNat ≤ 99) :
    (encodeBCD v).toNat / 16 ≤ 9 ∧ (encodeBCD v).toNat % 16 ≤ 9 := by
  rw [encodeBCD_toNat h]
  omega

/-- A byte whose nibbles are decimal digits stands for a value up to 99. -/
theorem decodeBCD_le {b : Byte} (htens : b.toNat / 16 ≤ 9) (hones : b.toNat % 16 ≤ 9) : (decodeBCD b).toNat ≤ 99 := by
  rw [decodeBCD_toNat]
  omega

/-- R94 (a). -/
theorem decodeBCD_encodeBCD {v : Byte} (h : v.toNat ≤ 99) : decodeBCD (encodeBCD v) = v := by
  apply BitVec.eq_of_toNat_eq
  rw [decodeBCD_toNat, encodeBCD_toNat h]
  omega

/-- R94 (b), for the bytes whose nibbles are decimal digits. -/
theorem encodeBCD_decodeBCD {b : Byte} (htens : b.toNat / 16 ≤ 9) (hones : b.toNat % 16 ≤ 9) :
    encodeBCD (decodeBCD b) = b := by
  apply BitVec.eq_of_toNat_eq
  rw [encodeBCD_toNat (decodeBCD_le htens hones), decodeBCD_toNat]
  omega

end Sys2Proof.Machine
end

section
/-! The obligations of ByteCodec. -/

namespace Sys2Proof.ByteCodec

open Sys2Proof Sys2Proof.Machine

/-- Settles O7, by the value of each conversion. -/
theorem bcdCodecResults : Obligations.BcdCodecResults :=
  ⟨fun v s => ⟨_, exec_encodeBCD s v, encodeBCD_toNat, encodeBCD_of_gt⟩,
    fun b s => ⟨_, exec_decodeBCD s b, decodeBCD_toNat b⟩⟩

/-- Settles O9: each conversion answers what the other one takes back. -/
theorem bcdRoundTrips : Obligations.BcdRoundTrips := by
  refine ⟨fun v s hv => ?_, fun b s htens hones => ?_⟩
  · obtain ⟨htens, hones⟩ := encodeBCD_digits hv
    have hback := exec_decodeBCD s (encodeBCD v)
    rw [decodeBCD_encodeBCD hv] at hback
    exact ⟨_, htens, hones, exec_encodeBCD s v, hback⟩
  · have hback := exec_encodeBCD s (decodeBCD b)
    rw [encodeBCD_decodeBCD htens hones] at hback
    exact ⟨_, decodeBCD_le htens hones, exec_decodeBCD s b, hback⟩

/-- Settles O55: the reply of each pure instruction is a term in which the state does not occur. -/
theorem pureOperationsIgnoreState : Obligations.PureOperationsIgnoreState :=
  fun _ => exec_codec_reply

/-- Settles O8, by the value of a packed word and of the two halves of a word. -/
theorem wordPackerResults : Obligations.WordPackerResults :=
  ⟨fun high low s => ⟨_, exec_packWord s high low, packWord_toNat high low⟩,
    fun w s => ⟨_, _, exec_unpackWord s w, highByte_toNat w, lowByte_toNat w⟩⟩

end Sys2Proof.ByteCodec
end

section
/-! SUPPORT. DateTimeValue (spec/41_datetime.md): what each operation answers in every state, the value of a clamped field,
and that reading a BCD buffer back undoes writing it on the valid date-times whose week has at most two decimal digits. -/

namespace Sys2Proof.Machine

/-! ### What an operation answers -/

section Answers
variable (s : State) (dt : DateTime)

theorem exec_dateTimeFull (y : Word) (mo d w h mi sec : Byte) :
    exec (.dateTimeFull y mo d w h mi sec) s = .next (s.answer (.dateTime (dateTimeOf y mo d w h mi sec)) .none) := rfl

/-- The date-only constructor is the full one at the open defaults (R111, D11). -/
theorem exec_dateTimeDateOnly (y : Word) (mo d : Byte) :
    exec (.dateTimeDateOnly y mo d) s =
      exec (.dateTimeFull y mo d Config.dtDefaultWeek (trunc8 Config.dtDefaultHour.val)
        (trunc8 Config.dtDefaultMinute.val) (trunc8 Config.dtDefaultSecond.val)) s := rfl

theorem exec_setYear (y : Word) :
    exec (.setYear dt y) s = .next (s.answer (.dateTime { dt with year := clampYear y }) .none) := rfl

theorem exec_setYearOffset (v : Byte) :
    exec (.setYearOffset dt v) s = .next (s.answer (.dateTime { dt with year := clampByte v 0 99 }) .none) := rfl

theorem exec_setMonth (v : Byte) :
    exec (.setMonth dt v) s = .next (s.answer (.dateTime { dt with month := clampByte v 1 12 }) .none) := rfl

theorem exec_setDay (v : Byte) :
    exec (.setDay dt v) s = .next (s.answer (.dateTime { dt with day := clampByte v 1 31 }) .none) := rfl

theorem exec_setWeek (v : Byte) : exec (.setWeek dt v) s = .next (s.answer (.dateTime { dt with week := v }) .none) := rfl

theorem exec_setHour (v : Byte) :
    exec (.setHour dt v) s = .next (s.answer (.dateTime { dt with hour := clampByte v 0 23 }) .none) := rfl

theorem exec_setMinute (v : Byte) :
    exec (.setMinute dt v) s = .next (s.answer (.dateTime { dt with minute := clampByte v 0 59 }) .none) := rfl

theorem exec_setSecond (v : Byte) :
    exec (.setSecond dt v) s = .next (s.answer (.dateTime { dt with second := clampByte v 0 59 }) .none) := rfl

theorem exec_toBCD : exec (.toBCD dt) s = .next (s.answer (.bytes (dt7Bytes (toBCD dt))) .none) := rfl

theorem exec_fromBCD (b : DT7) : exec (.fromBCD b) s = .next (s.answer (.dateTime (fromBCD b)) .none) := rfl

theorem exec_getYear : exec (.getYear dt) s = .next (s.answer (.word (fullYear dt)) .none) := rfl

end Answers

/-! ### Clamped fields -/

/-- No byte is below 0, so a range from 0 bounds it from above only. -/
theorem clampByte_zero_toNat (v : Byte) {hi : Nat} (h : hi ≤ 255) : (clampByte v 0 hi).toNat = min v.toNat hi :=
  (clampByte_toNat v (Nat.zero_le hi) h).trans (Nat.zero_max _)

/-- `clampYear_toNat` on the integers, where a year below 2000 is below the range and gives 0 (R101, D9). -/
theorem clampYear_toInt (y : Word) : ((clampYear y).toNat : Int) = max 0 (min ((y.toNat : Int) - 2000) 99) := by
  rw [clampYear_toNat]
  omega

/-- 2000 and an offset of one byte fit a word (R109). -/
theorem fullYear_toNat (d : DateTime) : (fullYear d).toNat = 2000 + d.year.toNat := by
  have := d.year.isLt
  simp only [fullYear, epoch, BitVec.toNat_ofNat]
  omega

/-- A value already in its field's range is not moved by the clamp (R111). -/
theorem trunc8_fin_min {hi : Nat} (h : hi ≤ 255) (x : Fin (hi + 1)) : min (trunc8 x.val).toNat hi = x.val := by
  have hx := x.isLt
  rw [trunc8_toNat_of_lt (by omega)]
  omega

/-- R110, operand by operand. -/
theorem dateTimeOf_fields (y : Word) (mo d w h mi sec : Byte) :
    ((dateTimeOf y mo d w h mi sec).year.toNat : Int) = max 0 (min ((y.toNat : Int) - 2000) 99) ∧
      (dateTimeOf y mo d w h mi sec).month.toNat = max 1 (min mo.toNat 12) ∧
      (dateTimeOf y mo d w h mi sec).day.toNat = max 1 (min d.toNat 31) ∧
      (dateTimeOf y mo d w h mi sec).week = w ∧
      (dateTimeOf y mo d w h mi sec).hour.toNat = min h.toNat 23 ∧
      (dateTimeOf y mo d w h mi sec).minute.toNat = min mi.toNat 59 ∧
      (dateTimeOf y mo d w h mi sec).second.toNat = min sec.toNat 59 :=
  ⟨clampYear_toInt y, clampByte_toNat mo (by decide) (by decide), clampByte_toNat d (by decide) (by decide), rfl,
    clampByte_zero_toNat h (by decide), clampByte_zero_toNat mi (by decide), clampByte_zero_toNat sec (by decide)⟩

/-! ### The BCD buffer -/

/-- A BCD byte read into a field with a lower bound (R113). -/
theorem clampByte_decodeBCD_toNat (b : Byte) {lo hi : Nat} (h : lo ≤ hi) (h' : hi ≤ 255) :
    (clampByte (decodeBCD b) lo hi).toNat = max lo (min (b.toNat % 16 + 10 * (b.toNat / 16)) hi) := by
  rw [clampByte_toNat _ h h', decodeBCD_toNat]

/-- A BCD byte read into a field that starts at 0 (R113). -/
theorem clampByte_zero_decodeBCD_toNat (b : Byte) {hi : Nat} (h : hi ≤ 255) :
    (clampByte (decodeBCD b) 0 hi).toNat = min (b.toNat % 16 + 10 * (b.toNat / 16)) hi := by
  rw [clampByte_zero_toNat _ h, decodeBCD_toNat]

/-- A field in its range survives the way through BCD and back: it has two digits, and the clamp does not move it. -/
theorem clampByte_decodeBCD_encodeBCD {v : Byte} {lo hi : Nat} (h : lo ≤ v.toNat) (h' : v.toNat ≤ hi) (hhi : hi ≤ 99) :
    clampByte (decodeBCD (encodeBCD v)) lo hi = v := by
  rw [decodeBCD_encodeBCD (h'.trans hhi)]
  exact clampByte_of_range (Int.ofNat_le.mpr h) (Int.ofNat_le.mpr h')

/-- R114, where it does not depend on `ENC_BCD_OOR`. -/
theorem fromBCD_toBCD {d : DateTime} (hv : d.Valid) (hw : d.week.toNat ≤ 99) : fromBCD (toBCD d) = d := by
  obtain ⟨year, month, day, week, hour, minute, second⟩ := d
  obtain ⟨hy, ⟨hmo1, hmo⟩, ⟨hd1, hd⟩, hh, hmi, hs⟩ := hv
  simp only [fromBCD, toBCD, DateTime.mk.injEq]
  exact ⟨clampByte_decodeBCD_encodeBCD (Nat.zero_le _) hy (by decide), clampByte_decodeBCD_encodeBCD hmo1 hmo (by decide),
    clampByte_decodeBCD_encodeBCD hd1 hd (by decide), decodeBCD_encodeBCD hw,
    clampByte_decodeBCD_encodeBCD (Nat.zero_le _) hh (by decide), clampByte_decodeBCD_encodeBCD (Nat.zero_le _) hmi (by decide),
    clampByte_decodeBCD_encodeBCD (Nat.zero_le _) hs (by decide)⟩

end Sys2Proof.Machine
end

section
/-! The obligations of DateTimeValue. -/

namespace Sys2Proof.DateTimeValue

open Sys2Proof Sys2Proof.Machine

/-- Settles O11, by the value of a clamped year and of a clamped offset. -/
theorem yearSettersSaturate : Obligations.YearSettersSaturate :=
  ⟨fun dt y s => ⟨_, exec_setYear s dt y, clampYear_toInt y⟩,
    fun dt x s => ⟨_, exec_setYearOffset s dt x, clampByte_zero_toNat x (by decide)⟩⟩

/-- Settles O14: the fields of the full constructor; the date-only one is the full one at the defaults, which are in range. -/
theorem constructedDateTimes : Obligations.ConstructedDateTimes := by
  refine ⟨fun y mo d w h mi sec s => ⟨_, exec_dateTimeFull s y mo d w h mi sec, dateTimeOf_fields y mo d w h mi sec⟩,
    fun y mo d s => ?_⟩
  obtain ⟨hy, hmo, hd, hw, hh, hmi, hs⟩ := dateTimeOf_fields y mo d Config.dtDefaultWeek (trunc8 Config.dtDefaultHour.val)
    (trunc8 Config.dtDefaultMinute.val) (trunc8 Config.dtDefaultSecond.val)
  exact ⟨_, (exec_dateTimeDateOnly s y mo d).trans (exec_dateTimeFull s y mo d _ _ _ _), hy, hmo, hd, hw,
    hh.trans (trunc8_fin_min (by decide) _), hmi.trans (trunc8_fin_min (by decide) _),
    hs.trans (trunc8_fin_min (by decide) _)⟩

/-- Settles O16: each byte at its decoded value, then clamped; the week has no range. -/
theorem fromBcdResult : Obligations.FromBcdResult := fun b s =>
  ⟨_, exec_fromBCD s b, clampByte_zero_decodeBCD_toNat b.year (by decide),
    clampByte_decodeBCD_toNat b.month (by decide) (by decide), clampByte_decodeBCD_toNat b.day (by decide) (by decide),
    decodeBCD_toNat b.week, clampByte_zero_decodeBCD_toNat b.hour (by decide),
    clampByte_zero_decodeBCD_toNat b.minute (by decide), clampByte_zero_decodeBCD_toNat b.second (by decide)⟩

/-- Settles O17: the buffer is `toBCD d`, from which `fromBCD` gets `d` back. -/
theorem dateTimeRoundTrip : Obligations.DateTimeRoundTrip := by
  intro d s hv hw
  have hback := exec_fromBCD s (toBCD d)
  rw [fromBCD_toBCD hv hw] at hback
  exact ⟨_, exec_toBCD s d, hback⟩

/-- Settles O12, by the value of a clamped byte; the week is not clamped. -/
theorem fieldSettersSaturate : Obligations.FieldSettersSaturate := fun dt x s =>
  ⟨⟨_, exec_setMonth s dt x, clampByte_toNat x (by decide) (by decide)⟩,
    ⟨_, exec_setDay s dt x, clampByte_toNat x (by decide) (by decide)⟩, exec_setWeek s dt x,
    ⟨_, exec_setHour s dt x, clampByte_zero_toNat x (by decide)⟩,
    ⟨_, exec_setMinute s dt x, clampByte_zero_toNat x (by decide)⟩,
    ⟨_, exec_setSecond s dt x, clampByte_zero_toNat x (by decide)⟩⟩

/-- Settles O13: the other getters answer the stored field itself. -/
theorem getterResults : Obligations.GetterResults := fun dt s =>
  ⟨⟨_, exec_getYear s dt, fullYear_toNat dt⟩, rfl, rfl, rfl, rfl, rfl, rfl⟩

/-- Settles O15: `toBCD` encodes field by field. -/
theorem toBcdResult : Obligations.ToBcdResult := fun d s =>
  ⟨_, _, _, _, _, _, _, exec_toBCD s d, exec_encodeBCD s d.year, exec_encodeBCD s d.month, exec_encodeBCD s d.day,
    exec_encodeBCD s d.week, exec_encodeBCD s d.hour, exec_encodeBCD s d.minute, exec_encodeBCD s d.second⟩

end Sys2Proof.DateTimeValue
end

section
/-! SUPPORT. The send side (spec/42_frame_tx.md): each of its instructions is one raw write of bytes that its operands and the two
header bytes give, and so what it does with a channel and without one is said once for all of them. -/

namespace Sys2Proof.Machine

/-- What an instruction of the send side puts on `TXS` in a session with the header bytes `h` and `l` (R63, R75): a primitive
writer its own bytes, every other instruction a whole frame. For the other kinds it says nothing. -/
def sentBytes : Instr → Byte → Byte → List Byte
  | .sendFrameHeader command length, h, l => [h, l, length, command]
  | .sendByte b, _, _ => [b]
  | .sendWord w, _, _ => [highByte w, lowByte w]
  | .sendBuffer bytes, _, _ => bytes
  | .writeRegister addr data, h, l | .fRW addr data, h, l => h :: l :: bodyRW addr data
  | .writeRegisterByte addr b, h, l => h :: l :: bodyRW addr [b]
  | .writeRegisterWord addr w, h, l => h :: l :: bodyRW addr [highByte w, lowByte w]
  | .writeVariable addr data, h, l | .fVW addr data, h, l => h :: l :: bodyVW addr data
  | .writeVariableWord addr w, h, l => h :: l :: bodyVW addr [wordPair w]
  | .setRTC d, h, l => h :: l :: bodyRtcSet (toBCD d)
  | .fRWRtcSet time, h, l => h :: l :: bodyRtcSet time
  | .fRRQ addr count, h, l => h :: l :: bodyRRQ addr count
  | .fVRQ addr count, h, l => h :: l :: bodyVRQ addr count
  | _, _, _ => []

/-! ### Sending is one raw write -/

section Send
variable {i : Instr} {s t : State}

/-- Every instruction of the send side within its bounds is one raw write of its bytes, in every state (R130). -/
theorem exec_send_eq_sendRaw (hk : i.kind = .send) (hb : i.InBounds) (s : State) :
    exec i s = deliverSend s (sendRaw (sentBytes i s.hdrH s.hdrL) s) := by
  cases i with
  | sendFrameHeader | sendByte | sendWord | sendBuffer => rfl
  | writeRegister addr data => exact congrArg (deliverSend s) (writeRegister_eq_sendRaw addr hb)
  | writeRegisterByte addr b => exact congrArg (deliverSend s) (writeRegister_eq_sendRaw addr (by simp))
  | writeRegisterWord addr w => exact congrArg (deliverSend s) (writeRegister_eq_sendRaw addr (by simp))
  | writeVariable addr data => exact congrArg (deliverSend s) (writeVariable_eq_sendRaw addr hb)
  | writeVariableWord addr w => exact congrArg (deliverSend s) (writeVariable_eq_sendRaw addr (by simp))
  | setRTC d => exact execSetRTC_eq_execFRWRtcSet d s
  | fRW | fVW => exact congrArg (whenConstructed s) (if_pos (decide_eq_true (p := _ ≤ _) hb))
  | fRRQ | fVRQ | fRWRtcSet => rfl
  | _ => cases hk

/-- With a channel the bytes go out, and nothing else changes but the reply (R130 (b)). -/
theorem exec_send_of_attached (hk : i.kind = .send) (hb : i.InBounds) (hc : s.constructed = true)
    (ha : s.attached = true) :
    exec i s = .next ((s.transmit (sentBytes i s.hdrH s.hdrL)).answer .success .none) := by
  rw [exec_send_eq_sendRaw hk hb, sendRaw_of_attached ha]
  exact whenConstructed_of_constructed _ hc

/-- An operation whose attempt fails shows the host its negative reply, in the state the attempt left (R177, R179). -/
theorem whenConstructed_deliver_fail {α : Type} {x : Attempt α} {neg : Reply} {shown : α → Reply} {c : Cause}
    (hc : s.constructed = true) (hx : x = .fail c t) :
    whenConstructed s (deliver neg shown x) = .next (t.answer neg c) := by
  rw [whenConstructed_of_constructed _ hc, hx, deliver_fail]

/-- Without a channel it fails as not ready, and nothing changes but the reply (R130 (a), R171). -/
theorem exec_send_of_not_attached (hk : i.kind = .send) (hb : i.InBounds) (hc : s.constructed = true)
    (ha : s.attached = false) : exec i s = .next (s.answer .failed .transportNotReady) := by
  rw [exec_send_eq_sendRaw hk hb]
  exact whenConstructed_deliver_fail hc (sendRaw_of_not_attached ha)

/-- An instruction of the send side that completes ran in a constructed session, with operands within its bounds (R174, U23). -/
theorem constructed_and_inBounds_of_exec_send (hk : i.kind = .send) (he : exec i s = .next t) :
    s.constructed = true ∧ i.InBounds := by
  have hc : s.constructed = true := by
    cases i with
    | sendFrameHeader | sendByte | sendWord | sendBuffer | writeRegister | writeRegisterByte | writeRegisterWord
    | writeVariable | writeVariableWord | setRTC | fRW | fRRQ | fVW | fVRQ | fRWRtcSet =>
      exact (whenConstructed_next he).1
    | _ => cases hk
  refine ⟨hc, by_contra fun hb => ?_⟩
  cases (exec_of_overlong hc hb).symm.trans he

end Send

/-! ### What is sent is a frame -/

/-- One frame behind the header bytes `h` and `l`: its length byte "equals the number of bytes that follow it" (R63, R130 (d)). -/
def IsFrame (h l : Byte) (bytes : List Byte) : Prop :=
  ∃ (len : Byte) (body : List Byte), len.toNat = body.length ∧ bytes = h :: l :: len :: body

section Frame
variable (h l : Byte)

theorem isFrame_bodyRW (addr : Byte) {data : List Byte} (hd : data.length ≤ 253) :
    IsFrame h l (h :: l :: bodyRW addr data) := by
  refine ⟨_, _, ?_, rfl⟩
  rw [trunc8_toNat_of_lt (by omega)]
  simp only [List.length_cons]
  omega

theorem isFrame_bodyVW (addr : Word) {data : List (Byte × Byte)} (hd : data.length ≤ 126) :
    IsFrame h l (h :: l :: bodyVW addr data) := by
  refine ⟨_, _, ?_, rfl⟩
  rw [trunc8_toNat_of_lt (by omega)]
  simp only [List.length_cons, pairBytes_length]
  omega

theorem isFrame_bodyRtcSet (time : DT7) : IsFrame h l (h :: l :: bodyRtcSet time) := ⟨_, _, rfl, rfl⟩

/-- The instructions of the send side above the primitive writers send one frame (R130 (d)). -/
theorem isFrame_sentBytes {i : Instr} (hk : i.kind = .send) (hb : i.InBounds) (hheader : ∀ c n, i ≠ .sendFrameHeader c n)
    (hbyte : ∀ b, i ≠ .sendByte b) (hword : ∀ w, i ≠ .sendWord w) (hbuffer : ∀ bs, i ≠ .sendBuffer bs) :
    IsFrame h l (sentBytes i h l) := by
  cases i with
  | sendFrameHeader c n => exact absurd rfl (hheader c n)
  | sendByte b => exact absurd rfl (hbyte b)
  | sendWord w => exact absurd rfl (hword w)
  | sendBuffer bs => exact absurd rfl (hbuffer bs)
  | writeRegister addr | fRW addr => exact isFrame_bodyRW h l addr hb
  | writeRegisterByte addr | writeRegisterWord addr => exact isFrame_bodyRW h l addr (by simp)
  | writeVariable addr | fVW addr => exact isFrame_bodyVW h l addr hb
  | writeVariableWord addr => exact isFrame_bodyVW h l addr (by simp)
  | setRTC | fRWRtcSet => exact isFrame_bodyRtcSet h l _
  | fRRQ | fVRQ => exact ⟨_, _, rfl, rfl⟩
  | _ => cases hk

end Frame

/-! ### Receiving without a channel -/

section NotAttached
variable {s : State}

/-! Of what the law of each read allows, one case is left: its operands fit, and there is no channel. -/

theorem readExpectedReg_of_not_attached (ha : s.attached = false) (cmd addr : Byte) {n : Byte} (hn : n.toNat ≤ 252) :
    readExpectedReg cmd addr n s = .fail .transportNotReady s := by
  simpa [ha, hn, not_lt.mpr hn] using readExpectedReg_cases cmd addr n s

theorem readExpectedVar_of_not_attached (ha : s.attached = false) (cmd : Byte) (addr : Word) {n : Byte}
    (hn : n.toNat ≤ 125) : readExpectedVar cmd addr n s = .fail .transportNotReady s := by
  simpa [ha, hn, not_lt.mpr hn] using readExpectedVar_cases cmd addr n s

theorem readRegister_of_not_attached (ha : s.attached = false) (addr : Byte) {n : Byte} (hn : n.toNat ≤ 252) :
    readRegister addr n s = .fail .transportNotReady s := by
  simpa [ha, hn, not_lt.mpr hn] using readRegister_cases addr n s

theorem readVariable_of_not_attached (ha : s.attached = false) (addr : Word) {n : Byte} (hn : n.toNat ≤ 125) :
    readVariable addr n s = .fail .transportNotReady s := by
  simpa [ha, hn, not_lt.mpr hn] using readVariable_cases addr n s

theorem pollEvent_of_not_attached (ha : s.attached = false) (m : Byte) :
    pollEvent m s = .fail .transportNotReady s := by
  simpa [ha] using pollEvent_cases m s

/-- Without a channel a bare byte read gives 0 at once (R171, D7). -/
theorem exec_readByteWithTimeout_of_not_attached (hc : s.constructed = true) (ha : s.attached = false) :
    exec .readByteWithTimeout s = .next (s.answer (.byte 0) .transportNotReady) := by
  have hcause (r : ByteRead) : byteReadCause s r = .transportNotReady := by rw [byteReadCause, ha]; rfl
  have he : exec .readByteWithTimeout s = .next ((rbt s).state.answer (.byte (rbt s).byte) (byteReadCause s (rbt s))) :=
    whenConstructed_of_constructed _ hc
  rw [he, hcause, rbt_of_not_attached ha]

/-- Without a channel a drain has no effect (R171, D7). -/
theorem exec_drainInput_of_not_attached (hc : s.constructed = true) (ha : s.attached = false) :
    exec .drainInput s = .next (s.answer .nothing .transportNotReady) :=
  (whenConstructed_of_constructed _ hc).trans (if_neg (by simp [ha]))

end NotAttached

end Sys2Proof.Machine
end

section
/-! The obligations of the frame formatter, and of every operation on the channel when there is none. -/

namespace Sys2Proof.FrameTx

open Sys2Proof Sys2Proof.Machine

/-- Settles O24: the bytes are those of `sentBytes`, in which no state occurs. -/
theorem sendOnlyAppends : Obligations.SendOnlyAppends :=
  fun i hk hb => ⟨sentBytes i, fun _ hc ha => exec_send_of_attached hk hb hc ha⟩

/-- Settles O25: what completed was within its bounds, so it appended its bytes, and these are a frame. -/
theorem sentFramesAreWellFormed : Obligations.SentFramesAreWellFormed := by
  intro i s t hk hheader hbyte hword hbuffer ha he
  obtain ⟨hc, hb⟩ := constructed_and_inBounds_of_exec_send hk he
  obtain ⟨len, body, hlen, hbytes⟩ := isFrame_sentBytes s.hdrH s.hdrL hk hb hheader hbyte hword hbuffer
  cases (exec_send_of_attached hk hb hc ha).symm.trans he
  exact ⟨len, body, hlen, congrArg (s.txs ++ ·) hbytes⟩

/-- Settles O31: the send side fails at its raw write, a read at its first use of the channel. -/
theorem withoutChannelNothingHappens : Obligations.WithoutChannelNothingHappens := by
  refine ⟨rfl, fun s hc ha => ⟨fun i hk hb => exec_send_of_not_attached hk hb hc ha,
    exec_readByteWithTimeout_of_not_attached hc ha, exec_drainInput_of_not_attached hc ha, fun m => ?_, fun c a n hn => ?_,
    fun c a n hn => ?_, fun a n hn => ?_, fun a n hn => ?_, ?_, fun a => ?_, fun a => ?_, fun a => ?_⟩⟩
  all_goals refine whenConstructed_deliver_fail hc ?_
  · exact pollEvent_of_not_attached ha m
  · exact readExpectedReg_of_not_attached ha c a hn
  · exact readExpectedVar_of_not_attached ha c a hn
  · exact readRegister_of_not_attached ha a hn
  · exact readVariable_of_not_attached ha a hn
  · exact readRegister_of_not_attached ha _ (by decide)
  · exact readRegister_of_not_attached ha a (by decide)
  · exact readRegister_of_not_attached ha a (by decide)
  · exact readVariable_of_not_attached ha a (by decide)

/-- Settles O19: each writer's bytes, or the failure of the raw write. -/
theorem primitiveWritersAppend : Obligations.PrimitiveWritersAppend := by
  refine fun s hc => ⟨fun ha => ?_, fun ha => ?_⟩
  · exact ⟨fun _ _ => exec_send_of_attached rfl trivial hc ha, fun _ => exec_send_of_attached rfl trivial hc ha,
      fun w => ⟨_, _, highByte_toNat w, lowByte_toNat w, exec_send_of_attached rfl trivial hc ha⟩,
      fun _ => exec_send_of_attached rfl trivial hc ha⟩
  · exact ⟨fun _ _ => exec_send_of_not_attached rfl trivial hc ha, fun _ => exec_send_of_not_attached rfl trivial hc ha,
      fun _ => exec_send_of_not_attached rfl trivial hc ha, fun _ => exec_send_of_not_attached rfl trivial hc ha⟩

/-- Settles O20: each write's frame, whose length byte holds its length within the bound. -/
theorem writesEmitFrames : Obligations.WritesEmitFrames := by
  refine fun s hc ha => ⟨fun addr data hd => ?_, fun addr data hd => ?_, fun addr w => ?_⟩
  · exact ⟨_, trunc8_toNat_of_lt (by omega), exec_send_of_attached rfl hd hc ha⟩
  · rw [onWire_eq_pairBytes]
    exact ⟨_, _, _, trunc8_toNat_of_lt (by omega), highByte_toNat addr, lowByte_toNat addr,
      exec_send_of_attached rfl hd hc ha⟩
  · exact ⟨_, _, _, _, highByte_toNat addr, lowByte_toNat addr, highByte_toNat w, lowByte_toNat w,
      exec_send_of_attached rfl trivial hc ha⟩

/-- Settles O21: one or two data bytes give the frame lengths 3 and 4. -/
theorem writeWrappersEmitFrames : Obligations.WriteWrappersEmitFrames := by
  refine fun s hc => ⟨fun ha => ?_, fun ha => ?_⟩
  · exact ⟨fun _ _ => exec_send_of_attached rfl trivial hc ha,
      fun _ w => ⟨_, _, highByte_toNat w, lowByte_toNat w, exec_send_of_attached rfl trivial hc ha⟩⟩
  · exact ⟨fun _ _ => exec_send_of_not_attached rfl trivial hc ha,
      fun _ _ => exec_send_of_not_attached rfl trivial hc ha⟩

/-- Settles O22: the frame carries the bytes that `toBCD` answers. -/
theorem setRtcEmitsFrame : Obligations.SetRtcEmitsFrame :=
  fun d s hc => ⟨fun ha => ⟨dt7Bytes (toBCD d), rfl, exec_toBCD s d, exec_send_of_attached rfl trivial hc ha⟩,
    exec_send_of_not_attached rfl trivial hc⟩

end Sys2Proof.FrameTx
end

section
/-! SUPPORT. The byte read (spec/43_frame_rx.md, R140), which ends by taking a byte or by an expired wait, decided by when the first
byte arrives; and the drain (R141), alone and at the start of a read. -/

namespace Sys2Proof.Machine

/-! ### How a byte read ends -/

section ByteRead
variable {s : State}

/-- A byte read that takes a byte answers it. -/
theorem exec_readByteWithTimeout_of_taken (hc : s.constructed = true) (ha : s.attached = true)
    (ht : (rbt s).timedOut = false) :
    exec .readByteWithTimeout s = .next ((rbt s).state.answer (.byte (rbt s).byte) .none) ∧
      Received s (rbt s).state [(rbt s).byte] 1 0 := by
  refine ⟨?_, ?_⟩
  · have he : byteReadCause s (rbt s) = .none := by simp [byteReadCause, ha, ht]
    rw [← he]
    exact whenConstructed_of_constructed _ hc
  · obtain ⟨_, _, ⟨rfl, rfl, -⟩ | ⟨-, -, -, h⟩, hr⟩ := rbt_received s ha
    · exact hr
    · cases ht.symm.trans h

/-- A byte read whose wait expires answers 0, with the cause of a timeout, and takes nothing (R172). -/
theorem exec_readByteWithTimeout_of_expired (hc : s.constructed = true) (ha : s.attached = true)
    (ht : (rbt s).timedOut = true) :
    exec .readByteWithTimeout s = .next ((rbt s).state.answer (.byte 0) .timeoutWithinRead) ∧
      Received s (rbt s).state [] 1 1 := by
  obtain ⟨_, _, ⟨-, -, h⟩ | ⟨rfl, rfl, hb, -⟩, hr⟩ := rbt_received s ha
  · cases h.symm.trans ht
  · refine ⟨?_, hr⟩
    have he : byteReadCause s (rbt s) = .timeoutWithinRead := by simp [byteReadCause, ha, ht]
    rw [← he, ← hb]
    exact whenConstructed_of_constructed _ hc

/-- With an empty queue the call waits (R140 (b), (c), (d)). -/
theorem rbt_of_empty (ha : s.attached = true) (hq : s.sync.rxq = []) :
    rbt s = waitByte s.timeoutMs 0 s.sync s.sync.link := by
  simp [rbt, ha, receiveByte, hq]

/-- With a timeout of 0 a queued byte is taken or left, as the implementation chooses (R140 (d), U3). -/
theorem rbt_of_queued_zero {b : Byte} {later : List Byte} (ha : s.attached = true) (hT : s.timeoutMs = 0)
    (hq : s.sync.rxq = b :: later) :
    rbt s = gotByte b { s.sync with rxq := later } ∨ rbt s = timedOut s.sync := by
  cases h : Config.rbtBoundary s.rbtCalls with
  | true => exact .inl (by simp [rbt, ha, receiveByte, hq, h])
  | false => exact .inr (by simp [rbt, ha, receiveByte, hq, hT, h])

end ByteRead

/-! ### When the first byte arrives -/

section Wait
variable {T d : Nat} {b : Byte} {link : List Arrival} (s : State)

theorem le_of_firstArrival {e : Nat} (h : firstArrival e link = some d) : e ≤ d := by
  induction link generalizing e with
  | nil => cases h
  | cons a rest ih =>
    unfold firstArrival at h
    split at h
    · exact (Nat.le_add_right e a.elapse).trans (ih h)
    · cases h
      exact Nat.le_add_right e a.elapse

/-- A wait meets a first byte that arrives by the deadline: before it the byte is taken, at it the implementation chooses
(R140 (b), (d)). -/
theorem waitByte_of_firstArrival {e : Nat} (hd : firstArrival e link = some d) (hb : firstByte link = some b) (hT : d ≤ T) :
    ∃ later rest, waitByte T e s link =
      if d < T ∨ Config.rbtBoundary s.rbtCalls = true then
        gotByte b { s with clock := s.clock + d, rxq := later, link := rest }
      else timedOut { s with clock := s.clock + T, rxq := b :: later, link := rest } := by
  induction link generalizing e with
  | nil => cases hd
  | cons a rest ih =>
    cases hbytes : a.bytes with
    | nil =>
      simp only [firstArrival, firstByte, hbytes, if_true] at hd hb
      have hle := le_of_firstArrival hd
      simpa only [waitByte, hbytes, if_neg (show ¬ T < e + a.elapse by omega)] using ih hd hb
    | cons b' later =>
      obtain rfl : e + a.elapse = d := by simpa [firstArrival, hbytes] using hd
      obtain rfl : b' = b := by simpa [firstByte, hbytes] using hb
      exact ⟨later, rest, by simp only [waitByte, hbytes, if_neg (not_lt.mpr hT)]⟩

/-- A wait that no byte reaches by the deadline expires at it (R140 (c)). -/
theorem waitByte_of_silence {e : Nat} (h : ∀ d, firstArrival e link = some d → T < d) :
    ∃ rest, waitByte T e s link = timedOut { s with clock := s.clock + T, link := rest } := by
  induction link generalizing e with
  | nil => exact ⟨[], rfl⟩
  | cons a rest ih =>
    by_cases hlt : T < e + a.elapse
    · exact ⟨{ a with elapse := e + a.elapse - T } :: rest, if_pos hlt⟩
    · cases hbytes : a.bytes with
      | nil =>
        simp only [firstArrival, hbytes, if_true] at h
        simpa only [waitByte, hbytes, if_neg hlt] using ih h
      | cons b later => exact absurd (h _ (by simp [firstArrival, hbytes])) hlt

end Wait

/-! ### The drain -/

section Drain
variable {s : State}

theorem exec_drainInput_of_attached (hc : s.constructed = true) (ha : s.attached = true) :
    exec .drainInput s = deliver .nothing (fun _ => .nothing) (drainInput s) :=
  (whenConstructed_of_constructed _ hc).trans (if_pos ha)

theorem drainInput_of_endless (ha : s.attached = true) (hd : s.drainEnds = false) :
    drainInput s = .stuck .drainNeverEnds := by
  simpa [ha, hd] using drainInput_cases s

theorem readRegister_of_endless (ha : s.attached = true) (hd : s.drainEnds = false) (addr : Byte) {n : Byte}
    (hn : n.toNat ≤ 252) : readRegister addr n s = .stuck .drainNeverEnds := by
  simpa [ha, hd, hn, not_lt.mpr hn] using readRegister_cases addr n s

theorem readVariable_of_endless (ha : s.attached = true) (hd : s.drainEnds = false) (addr : Word) {n : Byte}
    (hn : n.toNat ≤ 125) : readVariable addr n s = .stuck .drainNeverEnds := by
  simpa [ha, hd, hn, not_lt.mpr hn] using readVariable_cases addr n s

/-- An operation whose attempt does not end does not end (R203). -/
theorem whenConstructed_deliver_stuck {α : Type} {x : Attempt α} {neg : Reply} {shown : α → Reply} {f : Fault}
    (hc : s.constructed = true) (hx : x = .stuck f) : whenConstructed s (deliver neg shown x) = .fault f := by
  rw [whenConstructed_of_constructed _ hc, hx, deliver_stuck]

/-- Every read operation begins with a drain, and so does not end on a link that never pauses (R144, R147, R149, U9). -/
theorem exec_exchange_of_endless {i : Instr} (hk : i.kind = .exchange) (hb : i.InBounds) (hc : s.constructed = true)
    (ha : s.attached = true) (hd : s.drainEnds = false) : exec i s = .fault .drainNeverEnds := by
  cases i with
  | readRegister a n => exact whenConstructed_deliver_stuck hc (readRegister_of_endless ha hd a hb)
  | readVariable a n => exact whenConstructed_deliver_stuck hc (readVariable_of_endless ha hd a hb)
  | readRegisterByte | readRegisterWord | getRTC =>
    exact whenConstructed_deliver_stuck hc (readRegister_of_endless ha hd _ (by decide))
  | readVariableWord a => exact whenConstructed_deliver_stuck hc (readVariable_of_endless ha hd a (by decide))
  | _ => cases hk

end Drain

end Sys2Proof.Machine
end

section
/-! The obligations of the byte read and of the drain. -/

namespace Sys2Proof.FrameRx

open Sys2Proof Sys2Proof.Machine

/-- Settles O27: the byte is at the head of the queue, and the timeout is not 0. -/
theorem queuedByteIsReturned : Obligations.QueuedByteIsReturned := by
  intro s b later hc ha hT hq
  have hr := rbt_of_queued ha hT hq
  have ht : (rbt s).timedOut = false := congrArg ByteRead.timedOut hr
  rw [(exec_readByteWithTimeout_of_taken hc ha ht).1, hr, gotByte]
  simp only [sync_rbtCalls]

/-- Settles O28: the wait meets the first byte before the deadline. -/
theorem arrivingByteIsReturned : Obligations.ArrivingByteIsReturned := by
  intro s b d hc ha hq hd hb hlt
  obtain ⟨later, rest, hw⟩ := waitByte_of_firstArrival s.sync hd hb hlt.le
  have hr := (rbt_of_empty ha hq).trans hw
  rw [if_pos (.inl hlt)] at hr
  have ht : (rbt s).timedOut = false := congrArg ByteRead.timedOut hr
  have hbyte : (rbt s).byte = b := congrArg ByteRead.byte hr
  obtain ⟨he, hrec⟩ := exec_readByteWithTimeout_of_taken hc ha ht
  rw [hbyte] at he hrec
  exact ⟨_, he, hrec, (congrArg (fun r => r.state.clock) hr).ge⟩

/-- Settles O29: the wait expires at the deadline. -/
theorem silentWaitReturnsZero : Obligations.SilentWaitReturnsZero := by
  intro s hc ha hq hsilent
  obtain ⟨rest, hw⟩ := waitByte_of_silence s.sync hsilent
  have hr := (rbt_of_empty ha hq).trans hw
  obtain ⟨he, hrec⟩ := exec_readByteWithTimeout_of_expired hc ha (congrArg ByteRead.timedOut hr)
  exact ⟨_, he, hrec, (congrArg (fun r => r.state.rxq) hr).trans hq, (congrArg (fun r => r.state.clock) hr).ge, rfl⟩

/-- Settles O30: at the deadline the wait, and at a timeout of 0 the call itself, takes the byte or leaves it. -/
theorem boundaryByteIsEither : Obligations.BoundaryByteIsEither := by
  intro s b hc ha hboundary
  have key : ((rbt s).timedOut = false ∧ (rbt s).byte = b) ∨
      ((rbt s).timedOut = true ∧ (rbt s).state.rxq.head? = some b) := by
    rcases hboundary with ⟨hq, hd, hb⟩ | ⟨hT, hhead⟩
    · obtain ⟨later, rest, hw⟩ := waitByte_of_firstArrival s.sync hd hb le_rfl
      rw [rbt_of_empty ha hq, hw]
      split
      · exact .inl ⟨rfl, rfl⟩
      · exact .inr ⟨rfl, rfl⟩
    · obtain ⟨later, hq⟩ := List.head?_eq_some_iff.mp hhead
      rcases rbt_of_queued_zero ha hT hq with hr | hr <;> rw [hr]
      · exact .inl ⟨rfl, rfl⟩
      · exact .inr ⟨rfl, hhead⟩
  rcases key with ⟨ht, hb⟩ | ⟨ht, hhead⟩
  · obtain ⟨he, hrec⟩ := exec_readByteWithTimeout_of_taken hc ha ht
    rw [hb] at he hrec
    exact ⟨_, .inl ⟨he, hrec⟩⟩
  · obtain ⟨he, hrec⟩ := exec_readByteWithTimeout_of_expired hc ha ht
    exact ⟨_, .inr ⟨he, hrec, hhead⟩⟩

/-- Settles O33: what the drain does on a link that pauses. -/
theorem drainEmptiesQueue : Obligations.DrainEmptiesQueue := by
  intro s hc ha hd
  have hdrain : drainInput s = .ok () { s.sync with rxq := [] } := by simpa [ha, hd] using drainInput_cases s
  rw [exec_drainInput_of_attached hc ha, hdrain, deliver_ok]

/-- Settles O34: the drain itself, or the drain that a read begins with. -/
theorem endlessDrainIsStuck : Obligations.EndlessDrainIsStuck := by
  rintro i s (rfl | hk) hb hc ha hd
  · rw [exec_drainInput_of_attached hc ha, drainInput_of_endless ha hd, deliver_stuck]
  · exact exec_exchange_of_endless hk hb hc ha hd

end Sys2Proof.FrameRx
end

section
/-! SUPPORT. The expected-frame reader (R142, R143) over its byte reads: the frame it succeeds on, the field it stops at; and how
what the host gets from byte reads, and what stands on the streams, give it its bytes. -/

namespace Sys2Proof.Machine

/-! ### Where the bytes come from -/

section Bytes
variable {s : State} {bs : List Byte}

/-- Bytes that are queued, their last `z` being 0 if the link falls silent before them, are what the byte reads return. -/
theorem exists_readBytes_of_queued {received rest : List Byte} {z : Nat} (ha : s.attached = true) (hT : 1 ≤ s.timeoutMs)
    (hq : s.rxq = received ++ rest) (hz : z = 0 ∨ (rest = [] ∧ s.link = []))
    (hbs : received ++ List.replicate z 0 = bs) :
    ∃ u, readBytes bs.length s = (bs, u) ∧ Received s u received bs.length z := by
  obtain ⟨hread, hrec⟩ := readBytes_queued_silent z ha hT hq hz
  have hlen : received.length + z = bs.length := by simp [← hbs]
  rw [hlen] at hread hrec
  exact ⟨_, Prod.ext (hread.trans hbs) rfl, hrec⟩

/-- What an operation does where its byte reads return `bs`, it does where the host would get `bs` from as many byte reads, and
where `bs` is queued, its last `z` bytes being 0 if the link falls silent before them (R151, R172). -/
theorem result_of_readBytes {x : Result} {r : Reply} {c : Cause} (hc : s.constructed = true) (ha : s.attached = true)
    (hx : ∀ k u, readBytes k s = (bs, u) → x = .next (u.answer r c)) :
    (∀ t, byteReads bs.length s = (bs, t) → x = .next (t.answer r c)) ∧
      ∀ (received rest : List Byte) (z : Nat), 1 ≤ s.timeoutMs → s.rxq = received ++ rest →
        (z = 0 ∨ (rest = [] ∧ s.link = [])) → received ++ List.replicate z 0 = bs →
        ∃ u, x = .next (u.answer r c) ∧ Received s u received bs.length z := by
  refine ⟨fun t h => ?_, fun received rest z hT hq hz hbs => ?_⟩
  · obtain ⟨hread, hanswer⟩ := readBytes_of_byteReads hc h
    rw [hx _ _ hread, hanswer]
  · obtain ⟨u, hread, hrec⟩ := exists_readBytes_of_queued ha hT hq hz hbs
    exact ⟨u, hx _ _ hread, hrec⟩

/-- What an operation does where its byte reads return `good` and then `bad`: those bytes and no later one are taken (R142). -/
theorem failure_of_readBytes {x : Result} {r : Reply} {c : Cause} {good : List Byte} {bad : Byte}
    (hc : s.constructed = true) (ha : s.attached = true)
    (hx : ∀ k u, readBytes k s = (good ++ [bad], u) → x = .next (u.answer r c)) :
    (∀ t, byteReads (good.length + 1) s = (good ++ [bad], t) → x = .next (t.answer r c)) ∧
      ∀ rest : List Byte, 1 ≤ s.timeoutMs → s.rxq = good ++ bad :: rest →
        ∃ u, x = .next (u.answer r c) ∧ Received s u (good ++ [bad]) (good.length + 1) 0 := by
  have hlen : (good ++ [bad]).length = good.length + 1 := by simp
  obtain ⟨hhost, hqueued⟩ := result_of_readBytes hc ha hx
  rw [hlen] at hhost hqueued
  exact ⟨hhost, fun rest hT hq =>
    hqueued (good ++ [bad]) rest 0 hT (by simp [hq]) (.inl rfl) (List.append_nil _)⟩

end Bytes

/-! ### The words of byte pairs -/

theorem map_toNat_map_packWord (ps : List (Byte × Byte)) :
    (ps.map fun p => packWord p.1 p.2).map BitVec.toNat = pairValues ps := by
  simp [pairValues]

/-- Words with the values of byte pairs are the words packed of them (R61). -/
theorem eq_map_packWord {ws : List Word} {ps : List (Byte × Byte)} (h : ws.map BitVec.toNat = pairValues ps) :
    ws = ps.map fun p => packWord p.1 p.2 :=
  List.map_injective_iff.mpr (fun _ _ => BitVec.eq_of_toNat_eq) (h.trans (map_toNat_map_packWord ps).symm)

theorem onWire_length (ps : List (Byte × Byte)) : (onWire ps).length = 2 * ps.length := by
  rw [onWire_eq_pairBytes, pairBytes_length]

/-! ### The reader -/

section Reader
variable {s u : State} {cmd n : Byte} {k : Nat}

/-- The register mode reader on the expected frame (R142). -/
theorem exec_readExpectedFrameReg_ok {addr len : Byte} {data : List Byte} (hc : s.constructed = true)
    (ha : s.attached = true) (hn : n.toNat ≤ 252) (hd : data.length = n.toNat) (hlen : len.toNat = n.toNat + 3)
    (h : readBytes k s = ([s.hdrH, s.hdrL, len, cmd, addr, n] ++ data, u)) :
    exec (.readExpectedFrameReg cmd addr n) s = .next (u.answer (.bytes data) .none) :=
  whenConstructed_deliver_ok hc (readExpectedReg_of_readBytes ha hn hd
    (by simp only [expectedReg, List.map_cons, List.map_nil, hlen]) h)

/-- The variable mode reader on the expected frame (R143). -/
theorem exec_readExpectedFrameVar_ok {addr : Word} {len ah al : Byte} {ps : List (Byte × Byte)} {ws : List Word}
    (hc : s.constructed = true) (ha : s.attached = true) (hn : n.toNat ≤ 125) (hd : ps.length = n.toNat)
    (hlen : len.toNat = 2 * n.toNat + 4) (hah : ah.toNat = addr.toNat / 256) (hal : al.toNat = addr.toNat % 256)
    (hw : ws.map BitVec.toNat = pairValues ps)
    (h : readBytes k s = ([s.hdrH, s.hdrL, len, cmd, ah, al, n] ++ onWire ps, u)) :
    exec (.readExpectedFrameVar cmd addr n) s = .next (u.answer (.words ws) .none) := by
  rw [eq_map_packWord hw]
  exact whenConstructed_deliver_ok hc (readExpectedVar_of_readBytes ha hn hd
    (by simp only [expectedVar, List.map_cons, List.map_nil, hlen, highByte_toNat, lowByte_toNat, hah, hal]) h)

variable {before after : List (Field × Nat)} {f : Field} {e : Nat} {good : List Byte} {bad : Byte}

/-- The register mode reader stops at the first field that differs (R142, R176). -/
theorem readExpectedReg_fail_of_readBytes {addr : Byte} (ha : s.attached = true) (hn : n.toNat ≤ 252)
    (hfields : expectedReg s cmd addr n = before ++ (f, e) :: after)
    (hgood : good.map BitVec.toNat = before.map Prod.snd) (hbad : bad.toNat ≠ e)
    (h : readBytes k s = (good ++ [bad], u)) : readExpectedReg cmd addr n s = .fail (.mismatch f) u := by
  have hb : ¬ maxRegReadLen < n.toNat := not_lt.mpr hn
  rw [readExpectedReg, if_neg hb, if_pos ha, hfields, validate_fail_of_readBytes h hgood hbad, andThen_fail]

/-- The variable mode reader stops at the first field that differs (R143, R176). -/
theorem readExpectedVar_fail_of_readBytes {addr : Word} (ha : s.attached = true) (hn : n.toNat ≤ 125)
    (hfields : expectedVar s cmd addr n = before ++ (f, e) :: after)
    (hgood : good.map BitVec.toNat = before.map Prod.snd) (hbad : bad.toNat ≠ e)
    (h : readBytes k s = (good ++ [bad], u)) : readExpectedVar cmd addr n s = .fail (.mismatch f) u := by
  have hb : ¬ maxVarReadWords < n.toNat := not_lt.mpr hn
  rw [readExpectedVar, if_neg hb, if_pos ha, hfields, validate_fail_of_readBytes h hgood hbad, andThen_fail]

end Reader

/-! ### Field codes -/

section Codes
variable {before after : List (Field × Nat)} {f : Field} {e : Nat}

/-- A field that stands behind `before` has the code that stands at that place. -/
theorem getElem?_map_fieldCode {fields : List (Field × Nat)} (h : fields = before ++ (f, e) :: after) :
    (fields.map fun p => fieldCode p.1)[before.length]? = some (fieldCode f) := by
  simp [h]

/-- In register mode the one address field has code 5, and the count code 7 (R170). -/
theorem fieldCode_of_expectedReg {s : State} {cmd addr n : Byte} (h : expectedReg s cmd addr n = before ++ (f, e) :: after) :
    fieldCode f = if before.length = 5 then 7 else before.length + 1 := by
  have hcode : [1, 2, 3, 4, 5, 7][before.length]? = some (fieldCode f) := getElem?_map_fieldCode h
  obtain ⟨hlt, hget⟩ := List.getElem?_eq_some_iff.mp hcode
  have table : ∀ k (hk : k < 6), [1, 2, 3, 4, 5, 7][k] = if k = 5 then 7 else k + 1 := by decide
  rw [← hget, table _ hlt]

/-- In variable mode the codes number the fields (R170). -/
theorem fieldCode_of_expectedVar {s : State} {cmd n : Byte} {addr : Word}
    (h : expectedVar s cmd addr n = before ++ (f, e) :: after) : fieldCode f = before.length + 1 := by
  have hcode : [1, 2, 3, 4, 5, 6, 7][before.length]? = some (fieldCode f) := getElem?_map_fieldCode h
  obtain ⟨hlt, hget⟩ := List.getElem?_eq_some_iff.mp hcode
  have table : ∀ k (hk : k < 7), [1, 2, 3, 4, 5, 6, 7][k] = k + 1 := by decide
  rw [← hget, table _ hlt]

end Codes

end Sys2Proof.Machine
end

section
/-! The obligations of the expected-frame reader. -/

namespace Sys2Proof.FrameRx

open Sys2Proof Sys2Proof.Machine

/-- Settles O35: the reader on its byte reads, which the host or the streams give. -/
theorem expectedRegisterFrameIsRead : Obligations.ExpectedRegisterFrameIsRead := by
  intro s cmd addr n len data hc ha hn hd hlen
  have hk : ([s.hdrH, s.hdrL, len, cmd, addr, n] ++ data).length = 6 + n.toNat := by
    rw [List.length_append, hd]
    rfl
  rw [← hk]
  exact result_of_readBytes hc ha fun _ _ => exec_readExpectedFrameReg_ok hc ha hn hd hlen

/-- Settles O36, as in register mode. -/
theorem expectedVariableFrameIsRead : Obligations.ExpectedVariableFrameIsRead := by
  intro s cmd addr n len ah al pairs words hc ha hn hd hlen hah hal hw
  have hk : ([s.hdrH, s.hdrL, len, cmd, ah, al, n] ++ onWire pairs).length = 7 + 2 * n.toNat := by
    rw [List.length_append, onWire_length, hd]
    rfl
  rw [← hk]
  exact result_of_readBytes hc ha fun _ _ => exec_readExpectedFrameVar_ok hc ha hn hd hlen hah hal hw

/-- Settles O37: the validation stops at the field, on its byte reads. -/
theorem registerMismatchStopsAtField : Obligations.RegisterMismatchStopsAtField := by
  intro s cmd addr n bad good before after f e hc ha hn hfields hgood hbad
  exact ⟨rfl, fieldCode_of_expectedReg hfields, failure_of_readBytes hc ha fun _ _ h =>
    whenConstructed_deliver_fail hc (readExpectedReg_fail_of_readBytes ha hn hfields hgood hbad h)⟩

/-- Settles O38, as in register mode; the address is compared one byte at a time. -/
theorem variableMismatchStopsAtField : Obligations.VariableMismatchStopsAtField := by
  intro s cmd addr n bad good before after f e hc ha hn hfields hgood hbad
  rw [← highByte_toNat, ← lowByte_toNat] at hfields
  exact ⟨rfl, fieldCode_of_expectedVar hfields, failure_of_readBytes hc ha fun _ _ h =>
    whenConstructed_deliver_fail hc (readExpectedVar_fail_of_readBytes ha hn hfields hgood hbad h)⟩

end Sys2Proof.FrameRx
end

section
/-! SUPPORT. The read operations (R144 to R149): the wrappers show the attempt of their read in another form; every read is the
expected-frame reader after the environment's turn, the drain and the request; and how a read succeeds or fails. -/

namespace Sys2Proof.Machine

/-! ### One attempt, shown in two forms -/

section Wrappers
variable {s u : State}

@[simp] theorem answer_reply_cause (s : State) : s.answer s.reply s.cause = s := rfl

/-- Two operations that show one attempt differ in the reply only: each shows its own form of the outputs, or its own negative
reply with the cause (R179). -/
theorem deliver_otherwise {α : Type} {x : Attempt α} {neg : Reply} {shown : α → Reply} (neg' : Reply)
    (shown' : α → Reply) (h : whenConstructed s (deliver neg shown x) = .next u) :
    (u.reply = neg ∧ whenConstructed s (deliver neg' shown' x) = .next (u.answer neg' u.cause)) ∨
      ∃ a t, x = .ok a t ∧ u.reply = shown a ∧
        whenConstructed s (deliver neg' shown' x) = .next (u.answer (shown' a) .none) := by
  obtain ⟨hc, hn⟩ := whenConstructed_next h
  rcases deliver_next hn with ⟨a, t, rfl, rfl⟩ | ⟨c, t, rfl, rfl⟩
  · exact .inr ⟨a, t, rfl, rfl, whenConstructed_deliver_ok (u := t) hc rfl⟩
  · exact .inl ⟨rfl, whenConstructed_deliver_fail (t := t) hc rfl⟩

theorem readExpectedReg_ok_length {cmd addr n : Byte} {data : List Byte} (h : readExpectedReg cmd addr n s = .ok data u) :
    data.length = n.toNat := by
  rcases readExpectedReg_cases cmd addr n s with ⟨-, hx⟩ | ⟨-, -, hx⟩ | ⟨-, -, _, _, _, _, hlen, hx, -⟩ |
    ⟨-, -, _, _, _, _, _, hx, -⟩ <;> cases hx.symm.trans h
  exact hlen

theorem readExpectedVar_ok_length {cmd n : Byte} {addr : Word} {ws : List Word}
    (h : readExpectedVar cmd addr n s = .ok ws u) : ws.length = n.toNat := by
  rcases readExpectedVar_cases cmd addr n s with ⟨-, hx⟩ | ⟨-, -, hx⟩ | ⟨-, -, _, _, _, _, hlen, hx, -⟩ |
    ⟨-, -, _, _, _, _, _, hx, -⟩ <;> cases hx.symm.trans h
  exact hlen

/-- A register read that succeeds returns as many bytes as it asked for (R144). -/
theorem readRegister_ok_length {addr n : Byte} {data : List Byte} (h : readRegister addr n s = .ok data u) :
    data.length = n.toNat := by
  rcases readRegister_cases addr n s with ⟨-, hr⟩ | ⟨-, -, hr⟩ | ⟨-, -, -, hr⟩ | ⟨-, -, -, hr⟩ <;> rw [hr] at h
  · cases h
  · cases h
  · cases h
  · exact readExpectedReg_ok_length h

/-- A variable read that succeeds returns as many words as it asked for (R147). -/
theorem readVariable_ok_length {addr : Word} {n : Byte} {ws : List Word} (h : readVariable addr n s = .ok ws u) :
    ws.length = n.toNat := by
  rcases readVariable_cases addr n s with ⟨-, hr⟩ | ⟨-, -, hr⟩ | ⟨-, -, -, hr⟩ | ⟨-, -, -, hr⟩ <;> rw [hr] at h
  · cases h
  · cases h
  · cases h
  · exact readExpectedVar_ok_length h

/-- `readRegisterByte` after its read (R145). -/
theorem exec_readRegisterByte_of_read {addr : Byte} (h : exec (.readRegister addr 1) s = .next u) :
    (u.reply = .failed ∧ exec (.readRegisterByte addr) s = .next (u.answer (.byte 0) u.cause)) ∨
      ∃ b, u.reply = .bytes [b] ∧ exec (.readRegisterByte addr) s = .next (u.answer (.byte b) .none) := by
  rcases deliver_otherwise (.byte 0) (fun data => .byte (data.getD 0 0)) h with
    ⟨hr, he⟩ | ⟨data, t, hx, hr, he⟩
  · exact .inl ⟨hr, he⟩
  · obtain ⟨b, rfl⟩ := List.length_eq_one_iff.mp (readRegister_ok_length hx)
    exact .inr ⟨b, hr, he⟩

/-- `readRegisterWord` after its read: the first byte is the high one (R146, D18). -/
theorem exec_readRegisterWord_of_read {addr : Byte} (h : exec (.readRegister addr 2) s = .next u) :
    (u.reply = .failed ∧ exec (.readRegisterWord addr) s = .next (u.answer (.word 0) u.cause)) ∨
      ∃ high low, u.reply = .bytes [high, low] ∧
        exec (.readRegisterWord addr) s = .next (u.answer (.word (packWord high low)) .none) := by
  rcases deliver_otherwise (.word 0) (fun data => .word (packWord (data.getD 0 0) (data.getD 1 0))) h with
    ⟨hr, he⟩ | ⟨data, t, hx, hr, he⟩
  · exact .inl ⟨hr, he⟩
  · obtain ⟨high, low, rfl⟩ := List.length_eq_two.mp (readRegister_ok_length hx)
    exact .inr ⟨high, low, hr, he⟩

/-- `readVariableWord` after its read (R148). -/
theorem exec_readVariableWord_of_read {addr : Word} (h : exec (.readVariable addr 1) s = .next u) :
    (u.reply = .failed ∧ exec (.readVariableWord addr) s = .next (u.answer (.word 0) u.cause)) ∨
      ∃ w, u.reply = .words [w] ∧ exec (.readVariableWord addr) s = .next (u.answer (.word w) .none) := by
  rcases deliver_otherwise (.word 0) (fun ws => .word (ws.getD 0 0)) h with
    ⟨hr, he⟩ | ⟨ws, t, hx, hr, he⟩
  · exact .inl ⟨hr, he⟩
  · obtain ⟨w, rfl⟩ := List.length_eq_one_iff.mp (readVariable_ok_length hx)
    exact .inr ⟨w, hr, he⟩

/-- Seven bytes are the bytes of a buffer (R62). -/
theorem eq_dt7Bytes_of_length {data : List Byte} (h : data.length = 7) : data = dt7Bytes (dt7OfBytes data) := by
  match data, h with
  | [_, _, _, _, _, _, _], _ => rfl

/-- `getRTC` after its read: what `fromBCD` gives the seven bytes (R149). -/
theorem exec_getRTC_of_read (h : exec (.readRegister Config.rtcNowAddr 7) s = .next u) :
    (u.reply = .failed ∧ exec .getRTC s = .next u) ∨
      ∃ b : DT7, u.reply = .bytes (dt7Bytes b) ∧ exec .getRTC s = .next (u.answer (.dateTime (fromBCD b)) .none) := by
  rcases deliver_otherwise .failed (fun data => .dateTime (fromBCD (dt7OfBytes data))) h with
    ⟨hr, he⟩ | ⟨data, t, hx, hr, he⟩
  · have hu : u.answer .failed u.cause = u := by rw [← hr, answer_reply_cause]
    exact .inl ⟨hr, he.trans (congrArg _ hu)⟩
  · rw [eq_dt7Bytes_of_length (readRegister_ok_length hx)] at hr
    exact .inr ⟨_, hr, he⟩

end Wrappers

/-! ### The request -/

/-- After the environment's turn, the drain and the request, where the response is read (R49, R144, R147). -/
def State.requested (s : State) (request : List Byte) : State :=
  { s.sync with rxq := [], txs := s.txs ++ request }

section Requested
variable {s : State}

theorem drain_transmit (request : List Byte) :
    ({ s.sync with rxq := [] } : State).transmit request = s.requested request := by
  simp [State.requested, State.transmit]

@[simp] theorem requested_hdrH (request : List Byte) : (s.requested request).hdrH = s.hdrH := sync_hdrH s
@[simp] theorem requested_hdrL (request : List Byte) : (s.requested request).hdrL = s.hdrL := sync_hdrL s
@[simp] theorem requested_constructed (request : List Byte) : (s.requested request).constructed = s.constructed :=
  sync_constructed s
@[simp] theorem requested_attached (request : List Byte) : (s.requested request).attached = s.attached := sync_attached s
@[simp] theorem requested_requests (request : List Byte) : (s.requested request).requests = s.requests := sync_requests s
@[simp] theorem requested_rbtCalls (request : List Byte) : (s.requested request).rbtCalls = s.rbtCalls := sync_rbtCalls s
@[simp] theorem requested_rbtTimeouts (request : List Byte) : (s.requested request).rbtTimeouts = s.rbtTimeouts :=
  sync_rbtTimeouts s

theorem requested_sameSession (s : State) (request : List Byte) : SameSession s (s.requested request) :=
  SameSession.sync s

theorem readRegister_of_drainEnds (ha : s.attached = true) (hd : s.drainEnds = true) (addr : Byte) {n : Byte}
    (hn : n.toNat ≤ 252) :
    readRegister addr n s = readExpectedReg 0x81 addr n (s.requested [s.hdrH, s.hdrL, 3, 0x81, addr, n]) := by
  simpa only [ha, hd, hn, not_lt.mpr hn, drain_transmit, true_and, false_and, false_or,
    Bool.true_eq_false] using readRegister_cases addr n s

theorem readVariable_of_drainEnds (ha : s.attached = true) (hd : s.drainEnds = true) (addr : Word) {n : Byte}
    (hn : n.toNat ≤ 125) :
    readVariable addr n s = readExpectedVar Config.cmdVarRead addr n
      (s.requested [s.hdrH, s.hdrL, 4, Config.cmdVarRead, highByte addr, lowByte addr, n]) := by
  simpa only [ha, hd, hn, not_lt.mpr hn, drain_transmit, true_and, false_and, false_or,
    Bool.true_eq_false] using readVariable_cases addr n s

/-- An operation that goes on as another one in a state of the same session has its result. -/
theorem whenConstructed_deliver_congr {α : Type} {t : State} {x y : Attempt α} {neg : Reply} {shown : α → Reply}
    (hs : SameSession s t) (h : x = y) :
    whenConstructed s (deliver neg shown x) = whenConstructed t (deliver neg shown y) := by
  obtain ⟨-, -, -, -, hc, -⟩ := hs
  rw [whenConstructed, whenConstructed, hc, h]

/-- `readRegister` is the expected-frame reader behind its request (R144). -/
theorem exec_readRegister_eq (ha : s.attached = true) (hd : s.drainEnds = true) (addr : Byte) {n : Byte}
    (hn : n.toNat ≤ 252) :
    exec (.readRegister addr n) s =
      exec (.readExpectedFrameReg 0x81 addr n) (s.requested [s.hdrH, s.hdrL, 3, 0x81, addr, n]) :=
  whenConstructed_deliver_congr (requested_sameSession s _) (readRegister_of_drainEnds ha hd addr hn)

/-- `readVariable` is the expected-frame reader behind its request (R147). -/
theorem exec_readVariable_eq (ha : s.attached = true) (hd : s.drainEnds = true) (addr : Word) {n : Byte}
    (hn : n.toNat ≤ 125) :
    exec (.readVariable addr n) s = exec (.readExpectedFrameVar Config.cmdVarRead addr n)
      (s.requested [s.hdrH, s.hdrL, 4, Config.cmdVarRead, highByte addr, lowByte addr, n]) :=
  whenConstructed_deliver_congr (requested_sameSession s _) (readVariable_of_drainEnds ha hd addr hn)

/-- The bytes of an address are determined by their values (R61). -/
theorem eq_addressBytes {addr : Word} {ah al : Byte} (hah : ah.toNat = addr.toNat / 256)
    (hal : al.toNat = addr.toNat % 256) : ah = highByte addr ∧ al = lowByte addr :=
  ⟨BitVec.eq_of_toNat_eq (hah.trans (highByte_toNat addr).symm),
    BitVec.eq_of_toNat_eq (hal.trans (lowByte_toNat addr).symm)⟩

theorem drainEnds_of_link_nil (hl : s.link = []) : s.drainEnds = true := by simp [State.drainEnds, hl]

theorem drainEnds_of_link_cons {first : Arrival} {later : List Arrival} (hl : s.link = first :: later)
    (he : first.endless = false) : s.drainEnds = true := by
  simp [State.drainEnds, hl, he]

/-- A response that arrives whole in the turn after the drain's is what the byte reads behind the request return: the stale queue
is gone, and what follows the frame stays to be read (R144, R147). -/
theorem readBytes_response {request frame rest : List Byte} {first response : Arrival} {more : List Arrival}
    (ha : s.attached = true) (hT : 1 ≤ s.timeoutMs) (hl : s.link = first :: response :: more)
    (hresp : response.bytes = frame ++ rest) :
    ∃ u, readBytes frame.length (s.requested request) = (frame, u) ∧ SameSession s u ∧ u.txs = s.txs ++ request ∧
      u.requests = s.requests ∧ u.incoming = rest ++ more.flatMap Arrival.bytes ∧
      u.rbtCalls = s.rbtCalls + frame.length ∧ u.rbtTimeouts = s.rbtTimeouts := by
  have hs : s.requested request =
      { s with clock := s.clock + first.elapse, rxq := [], link := response :: more, txs := s.txs ++ request } := by
    rw [State.requested, sync_of_link_cons s hl]
  have hqueued : Queued (s.requested request) (frame ++ []) := by
    rw [hs, List.append_nil]
    exact ⟨ha, hT, rest, hresp⟩
  have hin : (s.requested request).incoming = frame ++ (rest ++ more.flatMap Arrival.bytes) := by
    simp [hs, State.incoming, hresp]
  obtain ⟨hread, -, htaken, -, hcalls, hwaits, -, -, hsession, htxs, hrequests, -⟩ := hqueued.readBytes
  rw [requested_requests] at hrequests
  rw [requested_rbtCalls] at hcalls
  rw [requested_rbtTimeouts] at hwaits
  exact ⟨_, Prod.ext hread rfl, (requested_sameSession s request).trans hsession, htxs, hrequests,
    List.append_cancel_left (htaken.symm.trans hin), hcalls, hwaits⟩

end Requested

/-! ### How a read fails -/

section Failure
variable {s t : State}

/-- A failure shown to the host is one of the attempt. -/
theorem fail_of_reply_failed {α : Type} {x : Attempt α} {shown : α → Reply} (hshown : ∀ a, shown a ≠ .failed)
    (h : whenConstructed s (deliver .failed shown x) = .next t) (hr : t.reply = .failed) :
    ∃ c u, x = .fail c u ∧ t = u.answer .failed c := by
  rcases deliver_next (whenConstructed_next h).2 with ⟨a, _, -, rfl⟩ | hfail
  · exact absurd hr (hshown a)
  · exact hfail

/-- The register mode reader fails on an attached channel at a validated field, and has only received (R173). -/
theorem readExpectedReg_fail {cmd addr n : Byte} {c : Cause} (ha : s.attached = true)
    (h : readExpectedReg cmd addr n s = .fail c t) : (∃ f, c = .mismatch f) ∧ OnlyReceives s t := by
  rcases readExpectedReg_cases cmd addr n s with ⟨-, hx⟩ | ⟨-, hna, -⟩ | ⟨-, -, _, _, _, _, -, hx, -⟩ |
    ⟨-, -, f, _, _, _, _, hx, -, -, -, -, -, -, -, honly⟩
  · cases hx.symm.trans h
  · cases ha.symm.trans hna
  · cases hx.symm.trans h
  · cases hx.symm.trans h
    exact ⟨⟨f, rfl⟩, honly⟩

/-- The variable mode reader fails on an attached channel at a validated field, and has only received (R173). -/
theorem readExpectedVar_fail {cmd n : Byte} {addr : Word} {c : Cause} (ha : s.attached = true)
    (h : readExpectedVar cmd addr n s = .fail c t) : (∃ f, c = .mismatch f) ∧ OnlyReceives s t := by
  rcases readExpectedVar_cases cmd addr n s with ⟨-, hx⟩ | ⟨-, hna, -⟩ | ⟨-, -, _, _, _, _, -, hx, -⟩ |
    ⟨-, -, f, _, _, _, _, hx, -, -, -, -, -, -, -, honly⟩
  · cases hx.symm.trans h
  · cases ha.symm.trans hna
  · cases hx.symm.trans h
  · cases hx.symm.trans h
    exact ⟨⟨f, rfl⟩, honly⟩

/-- What has only received behind a request has sent the request and nothing else, in the same session (R177). -/
theorem OnlyReceives.of_requested {request : List Byte} (h : OnlyReceives (s.requested request) t) :
    t.txs = s.txs ++ request ∧ SameSession s t := by
  obtain ⟨hsession, htxs, -⟩ := h
  exact ⟨htxs, (requested_sameSession s request).trans hsession⟩

/-- `readRegister` fails on an attached channel at a validated field, behind its request (R144, R177). -/
theorem readRegister_fail {addr n : Byte} {c : Cause} (ha : s.attached = true) (h : readRegister addr n s = .fail c t) :
    (∃ f, c = .mismatch f) ∧ t.txs = s.txs ++ [s.hdrH, s.hdrL, 3, 0x81, addr, n] ∧ SameSession s t := by
  rcases readRegister_cases addr n s with ⟨-, hr⟩ | ⟨-, hna, -⟩ | ⟨-, -, -, hr⟩ | ⟨-, -, -, hr⟩
  · cases hr.symm.trans h
  · cases ha.symm.trans hna
  · cases hr.symm.trans h
  · rw [hr, drain_transmit] at h
    exact (readExpectedReg_fail ((requested_attached _).trans ha) h).imp_right OnlyReceives.of_requested

/-- `readVariable` fails on an attached channel at a validated field, behind its request (R147, R177). -/
theorem readVariable_fail {addr : Word} {n : Byte} {c : Cause} (ha : s.attached = true)
    (h : readVariable addr n s = .fail c t) :
    (∃ f, c = .mismatch f) ∧
      t.txs = s.txs ++ [s.hdrH, s.hdrL, 4, Config.cmdVarRead, highByte addr, lowByte addr, n] ∧ SameSession s t := by
  rcases readVariable_cases addr n s with ⟨-, hr⟩ | ⟨-, hna, -⟩ | ⟨-, -, -, hr⟩ | ⟨-, -, -, hr⟩
  · cases hr.symm.trans h
  · cases ha.symm.trans hna
  · cases hr.symm.trans h
  · rw [hr, drain_transmit] at h
    exact (readExpectedVar_fail ((requested_attached _).trans ha) h).imp_right OnlyReceives.of_requested

/-- The state that a read against a silent link leaves: its request is sent, and one wait has expired (R151). -/
def State.waited (s : State) (request : List Byte) : State :=
  { s with rxq := [], txs := s.txs ++ request, clock := s.clock + s.timeoutMs, rbtCalls := s.rbtCalls + 1,
           rbtTimeouts := s.rbtTimeouts + 1 }

/-- The 0 of a timeout is not the header byte expected behind a request. -/
theorem zero_toNat_ne_hdrH (hH : s.hdrH ≠ 0) (request : List Byte) :
    (0 : Byte).toNat ≠ (s.requested request).hdrH.toNat := by
  rw [requested_hdrH]
  exact fun h => hH (BitVec.eq_of_toNat_eq h).symm

/-- The first byte read behind a request on a silent link is the 0 of a timeout. -/
theorem readBytes_one_silent (ha : s.attached = true) (hl : s.link = []) (request : List Byte) :
    readBytes 1 (s.requested request) = ([] ++ [0], s.waited request) := by
  have hs : s.requested request = { s with rxq := [], txs := s.txs ++ request, link := [] } := by
    rw [State.requested, sync_of_link_nil s hl, hl]
  have hr : rbt (s.requested request) = ⟨0, true, { s.waited request with link := [] }⟩ := by
    simp [hs, rbt, ha, sync_of_link_nil, receiveByte, waitByte, timedOut, State.waited]
  rw [readBytes_one, hr]
  exact Prod.ext rfl (by rw [← hl]; rfl)

/-- Against a silent link `readRegister` fails at header high, after one wait (R151). -/
theorem readRegister_silent (ha : s.attached = true) (hH : s.hdrH ≠ 0) (hl : s.link = []) (addr : Byte) {n : Byte}
    (hn : n.toNat ≤ 252) :
    readRegister addr n s = .fail (.mismatch .headerHigh) (s.waited [s.hdrH, s.hdrL, 3, 0x81, addr, n]) := by
  rw [readRegister_of_drainEnds ha (drainEnds_of_link_nil hl) addr hn]
  exact readExpectedReg_fail_of_readBytes ((requested_attached _).trans ha) hn (before := []) rfl rfl
    (zero_toNat_ne_hdrH hH _) (readBytes_one_silent ha hl _)

/-- Against a silent link `readVariable` fails at header high, after one wait (R151). -/
theorem readVariable_silent (ha : s.attached = true) (hH : s.hdrH ≠ 0) (hl : s.link = []) (addr : Word) {n : Byte}
    (hn : n.toNat ≤ 125) :
    readVariable addr n s = .fail (.mismatch .headerHigh)
      (s.waited [s.hdrH, s.hdrL, 4, Config.cmdVarRead, highByte addr, lowByte addr, n]) := by
  rw [readVariable_of_drainEnds ha (drainEnds_of_link_nil hl) addr hn]
  exact readExpectedVar_fail_of_readBytes ((requested_attached _).trans ha) hn (before := []) rfl rfl
    (zero_toNat_ne_hdrH hH _) (readBytes_one_silent ha hl _)

end Failure

end Sys2Proof.Machine
end

section
/-! The obligations of the read operations. -/

namespace Sys2Proof.FrameRx

open Sys2Proof Sys2Proof.Machine

/-- Settles O32: each wrapper shows the attempt of its read in another form. -/
theorem collapsingWrappersFollowTheirReads : Obligations.CollapsingWrappersFollowTheirReads := by
  intro s u
  refine ⟨fun addr h => ?_, fun addr h => ?_, fun addr h => ?_⟩
  · rcases exec_readRegisterByte_of_read h with ⟨hr, he⟩ | ⟨b, hr, he⟩ <;> simp [hr, he]
  · rcases exec_readRegisterWord_of_read h with ⟨hr, he⟩ | ⟨high, low, hr, he⟩
    · simp [hr, he]
    · refine ⟨fun high' low' hr' => ⟨packWord high low, ?_, he⟩, by simp [hr], .inr ⟨high, low, hr⟩⟩
      obtain ⟨rfl, rfl⟩ : high = high' ∧ low = low' := by simpa [hr] using hr'
      exact packWord_toNat high low
  · rcases exec_readVariableWord_of_read h with ⟨hr, he⟩ | ⟨w, hr, he⟩ <;> simp [hr, he]

/-- Settles O39: the reader behind the request, whose byte reads return the response. -/
theorem readRegisterReturnsResponse : Obligations.ReadRegisterReturnsResponse := by
  intro s addr n hc ha hn
  refine ⟨fun hd => exec_readRegister_eq ha hd addr hn,
    fun len data rest first response more hT hd hlen hl hpauses hresp => ?_⟩
  obtain ⟨u, hread, hsession, htxs, hrequests, hincoming, hcalls, hwaits⟩ :=
    readBytes_response (request := [s.hdrH, s.hdrL, 3, 0x81, addr, n]) ha hT hl hresp
  refine ⟨u, ?_, hsession, htxs, hrequests, hincoming, ?_, hwaits⟩
  · rw [exec_readRegister_eq ha (drainEnds_of_link_cons hl hpauses) addr hn]
    exact exec_readExpectedFrameReg_ok (by simpa using hc) (by simpa using ha) hn hd hlen (by simpa using hread)
  · rw [hcalls, List.length_append, hd]
    rfl

/-- Settles O41, as in register mode. -/
theorem readVariableReturnsResponse : Obligations.ReadVariableReturnsResponse := by
  intro s addr n ah al hc ha hn hah hal
  obtain ⟨rfl, rfl⟩ := eq_addressBytes hah hal
  refine ⟨fun hd => exec_readVariable_eq ha hd addr hn,
    fun len pairs words rest first response more hT hd hlen hw hl hpauses hresp => ?_⟩
  obtain ⟨u, hread, hsession, htxs, hrequests, hincoming, hcalls, hwaits⟩ :=
    readBytes_response (request := [s.hdrH, s.hdrL, 4, Config.cmdVarRead, highByte addr, lowByte addr, n]) ha hT hl hresp
  refine ⟨u, ?_, hsession, htxs, hrequests, hincoming, ?_, hwaits⟩
  · rw [exec_readVariable_eq ha (drainEnds_of_link_cons hl hpauses) addr hn]
    exact exec_readExpectedFrameVar_ok (by simpa using hc) (by simpa using ha) hn hd hlen hah hal hw
      (by simpa using hread)
  · rw [hcalls, List.length_append, onWire_length, hd]
    rfl

/-- Settles O40: the read returns the response, and the wrapper shows it in its own form. -/
theorem readWrappersReturnResponse : Obligations.ReadWrappersReturnResponse := by
  intro s rest first response more hc ha hT hl hpauses
  refine ⟨fun addr b hresp => ?_, fun addr high low hresp => ?_, fun addr ah al high low hah hal hresp => ?_⟩
  · obtain ⟨u, he, hsession, htxs, hrequests, hincoming, -⟩ :=
      (readRegisterReturnsResponse s addr 1 hc ha (by decide)).2 4 [b] rest first response more hT rfl rfl hl hpauses
        hresp
    rcases exec_readRegisterByte_of_read he with ⟨hr, -⟩ | ⟨_, hr, hbyte⟩ <;> cases hr
    exact ⟨u, hbyte, hsession, htxs, hrequests, hincoming⟩
  · obtain ⟨u, he, hsession, htxs, hrequests, hincoming, -⟩ :=
      (readRegisterReturnsResponse s addr 2 hc ha (by decide)).2 5 [high, low] rest first response more hT rfl rfl hl
        hpauses hresp
    rcases exec_readRegisterWord_of_read he with ⟨hr, -⟩ | ⟨_, _, hr, hword⟩ <;> cases hr
    exact ⟨u, _, packWord_toNat high low, hword, hsession, htxs, hrequests, hincoming⟩
  · obtain ⟨u, he, hsession, htxs, hrequests, hincoming, -⟩ :=
      (readVariableReturnsResponse s addr 1 ah al hc ha (by decide) hah hal).2 6 [(high, low)] [packWord high low] rest
        first response more hT rfl rfl (map_toNat_map_packWord [(high, low)]) hl hpauses hresp
    rcases exec_readVariableWord_of_read he with ⟨hr, -⟩ | ⟨_, hr, hword⟩ <;> cases hr
    exact ⟨u, _, packWord_toNat high low, hword, hsession, htxs, hrequests, hincoming⟩

/-- Settles O42: `getRTC` shows the attempt of its read, decoded; the read returns the response. -/
theorem getRtcReturnsResponse : Obligations.GetRtcReturnsResponse := by
  refine ⟨fun s u h => ?_, fun s b rest first response more hc ha hT hl hpauses hresp => ?_⟩
  · rcases exec_getRTC_of_read h with ⟨hr, he⟩ | ⟨b, hr, he⟩
    · exact ⟨fun _ => he, by simp [hr], .inl hr⟩
    · refine ⟨by simp [hr], fun b' hr' => ⟨fromBCD b', exec_fromBCD s b', ?_⟩, .inr ⟨b, hr⟩⟩
      rwa [← dt7Bytes_injective (Reply.bytes.inj (hr.symm.trans hr'))]
  · obtain ⟨u, he, hsession, htxs, hrequests, hincoming, -⟩ :=
      (readRegisterReturnsResponse s Config.rtcNowAddr 7 hc ha (by decide)).2 0x0A (dt7Bytes b) rest first response more
        hT rfl rfl hl hpauses hresp
    rcases exec_getRTC_of_read he with ⟨hr, -⟩ | ⟨b', hr, hrtc⟩
    · cases hr
    · obtain rfl := dt7Bytes_injective (Reply.bytes.inj hr)
      exact ⟨u, _, exec_fromBCD s b, hrtc, hsession, htxs, hrequests, hincoming⟩

/-- Settles O43: how each of the two reads fails; `getRTC` is a register read. -/
theorem failedReadHasSentItsRequest : Obligations.FailedReadHasSentItsRequest := by
  rintro i s t request ha he hr (⟨a, n, rfl, rfl⟩ | ⟨a, n, ah, al, rfl, hah, hal, rfl⟩ | ⟨rfl, rfl⟩)
  · obtain ⟨c, u, hx, rfl⟩ := fail_of_reply_failed nofun he hr
    exact readRegister_fail (t := u) ha hx
  · obtain ⟨rfl, rfl⟩ := eq_addressBytes hah hal
    obtain ⟨c, u, hx, rfl⟩ := fail_of_reply_failed nofun he hr
    exact readVariable_fail (t := u) ha hx
  · obtain ⟨c, u, hx, rfl⟩ := fail_of_reply_failed nofun he hr
    exact readRegister_fail (t := u) ha hx

/-- Settles O44: how each of the two reads fails, which the wrappers and `getRTC` show in their own form. -/
theorem silentLinkFailsAfterOneWait : Obligations.SilentLinkFailsAfterOneWait := by
  intro s hc ha hH hl
  refine ⟨fun a n hn => ?_, fun a n hn => ⟨_, _, highByte_toNat a, lowByte_toNat a, ?_⟩, ?_, fun a => ?_, fun a => ?_,
    fun a => ⟨_, _, highByte_toNat a, lowByte_toNat a, ?_⟩⟩
  all_goals refine whenConstructed_deliver_fail hc ?_
  · exact readRegister_silent ha hH hl a hn
  · exact readVariable_silent ha hH hl a hn
  · exact readRegister_silent ha hH hl _ (by decide)
  · exact readRegister_silent ha hH hl a (by decide)
  · exact readRegister_silent ha hH hl a (by decide)
  · exact readVariable_silent ha hH hl a (by decide)

end Sys2Proof.FrameRx
end

section
/-! SUPPORT. The event poll (R150) over its byte reads: the state in which its frame is read, the header low it does not accept, and
the event it answers. -/

namespace Sys2Proof.Machine

section Poll
variable {s u : State} {m : Byte}

/-- A header low that is not the session's ends the poll, if it is compared (R150, R22). -/
theorem pollFrame_wrong_headerLow (hlow : (rbt s).byte ≠ s.hdrL) (hcheck : Config.pollCheckHdrL = true) :
    pollFrame m s = .fail (.mismatch .headerLow) (rbt s).state := if_pos ⟨hlow, hcheck⟩

/-- The environment's turn appends what it brings to the queue; where there is no turn, it changes nothing. -/
theorem sync_queue (s : State) :
    ∃ more, s.sync.rxq = s.rxq ++ more ∧ more ++ s.sync.link.flatMap Arrival.bytes = s.link.flatMap Arrival.bytes ∧
      (s.link = [] → more = [] ∧ s.sync.link = []) := by
  cases hl : s.link with
  | nil => exact ⟨[], by rw [sync_of_link_nil s hl, List.append_nil], by rw [sync_of_link_nil s hl, hl]; rfl,
      fun _ => ⟨rfl, by rw [sync_of_link_nil s hl, hl]⟩⟩
  | cons a later => exact ⟨a.bytes, by rw [sync_of_link_cons s hl], by rw [sync_of_link_cons s hl]; rfl, nofun⟩

/-- A poll that finds header high takes it and goes on with the frame (R150). -/
theorem pollEvent_of_headerHigh {later : List Byte} (ha : s.attached = true) (hq : s.sync.rxq = s.hdrH :: later) :
    pollEvent m s = pollFrame m { s.sync with rxq := later } := by
  simp [pollEvent, ha, hq]

/-- A poll of a frame whose bytes are queued behind header high, or the zeros of timeouts at its end: the state `t` behind header
high, and what the byte reads from there return and leave (R150, R151). -/
theorem exists_pollFrame_of_queued {received rest bs : List Byte} {z : Nat} (m : Byte) (ha : s.attached = true)
    (hT : 1 ≤ s.timeoutMs) (hq : s.rxq = s.hdrH :: received ++ rest) (hz : z = 0 ∨ (rest = [] ∧ s.link = []))
    (hbs : received ++ List.replicate z 0 = bs) :
    ∃ t u, t.hdrL = s.hdrL ∧ pollEvent m s = pollFrame m t ∧ readBytes bs.length t = (bs, u) ∧ OnlyReceives s u ∧
      u.incoming = rest ++ s.link.flatMap Arrival.bytes ∧ u.rbtCalls = s.rbtCalls + bs.length ∧
      u.rbtTimeouts = s.rbtTimeouts + z := by
  obtain ⟨more, hsync, hmore, hsilent⟩ := sync_queue s
  have hhead : s.sync.rxq = s.hdrH :: (received ++ (rest ++ more)) := by simp [hsync, hq]
  have hz' : z = 0 ∨ (rest ++ more = [] ∧ s.sync.link = []) := hz.imp_right fun ⟨hrest, hl⟩ =>
    ⟨by rw [hrest, (hsilent hl).1]; rfl, (hsilent hl).2⟩
  obtain ⟨u, hread, htaken, -, hcalls, hwaits, -, -, honly⟩ :=
    exists_readBytes_of_queued (s := { s.sync with rxq := received ++ (rest ++ more) }) ((sync_attached s).trans ha)
      (hT.trans_eq (sync_timeoutMs s).symm) rfl hz' hbs
  refine ⟨{ s.sync with rxq := received ++ (rest ++ more) }, u, sync_hdrL s, pollEvent_of_headerHigh ha hhead, hread,
    (OnlyReceives.sync s).trans honly, ?_, ?_, ?_⟩
  · rw [State.incoming, List.append_assoc, List.append_assoc, hmore] at htaken
    exact (List.append_cancel_left htaken).symm
  · rw [hcalls, sync_rbtCalls]
  · rw [hwaits, sync_rbtTimeouts]

/-- The words that the poll stores, by value: the first `maxWords` of those declared (R31, R71). -/
theorem map_toNat_take_map_packWord (k : Nat) (ps : List (Byte × Byte)) :
    ((ps.map fun p => packWord p.1 p.2).take k).map BitVec.toNat = pairValues (ps.take k) := by
  rw [← List.map_take, map_toNat_map_packWord]

/-- The poll on a frame whose header low it accepts: the event if the length agrees, else none (R150, D15). -/
theorem exec_pollEvent_of_frame {t : State} {low len cmd ah al n : Byte} {k : Nat} {ps : List (Byte × Byte)}
    (hc : s.constructed = true) (hlow : low = t.hdrL ∨ Config.pollCheckHdrL = false) (hd : ps.length = n.toNat)
    (hpoll : pollEvent m s = pollFrame m t) (hread : readBytes k t = ([low, len, cmd, ah, al, n] ++ onWire ps, u)) :
    (len.toNat = 4 + 2 * n.toNat → ∃ ev : DeviceEvent,
      exec (.pollEvent m) s = .next (u.answer (.event ev) .none) ∧ ev.command = cmd ∧
        ev.address.toNat = 256 * ah.toNat + al.toNat ∧ ev.dataLength = n ∧
        ev.data.map BitVec.toNat = pairValues (ps.take m.toNat)) ∧
      (len.toNat ≠ 4 + 2 * n.toNat → exec (.pollEvent m) s = .next (u.answer .noEvent .lengthMismatch)) := by
  rw [pollFrame_of_readBytes hlow hd hread] at hpoll
  refine ⟨fun hlen => ?_, fun hlen => ?_⟩
  · rw [if_pos hlen] at hpoll
    exact ⟨_, whenConstructed_deliver_ok hc hpoll, rfl, packWord_toNat ah al, rfl, map_toNat_take_map_packWord _ ps⟩
  · rw [if_neg hlen] at hpoll
    exact whenConstructed_deliver_fail hc hpoll

end Poll

end Sys2Proof.Machine
end

section
/-! The obligations of the event poll. -/

namespace Sys2Proof.FrameRx

open Sys2Proof Sys2Proof.Machine

/-- Settles O45: the queue's head decides, and then the byte read behind it. -/
theorem pollEndsEarly : Obligations.PollEndsEarly := by
  refine ⟨rfl, rfl, fun s m hc ha => ⟨fun hq => ?_, fun b later hq hb => ?_, fun low rest hT hq hlow => ?_⟩⟩
  · exact whenConstructed_deliver_fail hc (by simp [pollEvent, ha, hq])
  · exact whenConstructed_deliver_fail hc (by simp [pollEvent, ha, hq, hb])
  · obtain ⟨t, u, hL, hpoll, hread, honly, hincoming, hcalls, -⟩ :=
      exists_pollFrame_of_queued (received := [low]) m ha hT hq (.inl rfl) (List.append_nil _)
    cases hcheck : Config.pollCheckHdrL with
    | false => exact .inl rfl
    | true =>
      obtain ⟨hbyte, hstate⟩ := readBytes_cons hread
      obtain rfl : (rbt t).state = u := congrArg Prod.snd hstate
      rw [pollFrame_wrong_headerLow (by rwa [hbyte, hL]) hcheck] at hpoll
      exact .inr ⟨_, whenConstructed_deliver_fail hc hpoll, honly, hincoming, hcalls⟩

/-- Settles O46: the poll on the byte reads behind header high, which the host or the streams give. -/
theorem pollParsesEventFrame : Obligations.PollParsesEventFrame := by
  refine ⟨rfl, fun s m low len cmd ah al n pairs hc ha hd hlow => ⟨fun later t hq h => ?_,
    fun received rest z hT hq hz hframe => ?_⟩⟩
  · obtain ⟨hread, hanswer⟩ := readBytes_of_byteReads (s := { s.sync with rxq := later }) ((sync_constructed s).trans hc) h
    have hpoll := exec_pollEvent_of_frame (m := m) hc (by simpa using hlow) hd (pollEvent_of_headerHigh ha hq) hread
    simpa only [hanswer] using hpoll
  · obtain ⟨t, u, hL, hpoll, hread, honly, hincoming, hcalls, hwaits⟩ :=
      exists_pollFrame_of_queued m ha hT hq hz hframe
    have hk : ([low, len, cmd, ah, al, n] ++ onWire pairs).length = 6 + 2 * n.toNat := by
      rw [List.length_append, onWire_length, hd]
      rfl
    exact ⟨u, honly, hincoming, hk ▸ hcalls, hwaits, exec_pollEvent_of_frame hc (hL ▸ hlow) hd hpoll hread⟩

end Sys2Proof.FrameRx
end

section
/-! SUPPORT. How long a read can block (R152, R198): each byte read waits at most the timeout beyond the environment's turns, and
nothing else takes time. -/

namespace Sys2Proof.Machine

/-- From `s` to `t` at most `k` byte reads were made, and beyond the environment's turns at most `k` timeouts passed. -/
def WithinReads (k : Nat) (s t : State) : Prop :=
  t.rbtCalls ≤ s.rbtCalls + k ∧ t.clock + t.pendingTime ≤ s.clock + s.pendingTime + k * s.timeoutMs

section Within
variable {k : Nat} {s t : State}

/-- Where no byte read was made, and no time passed but the environment's. -/
theorem WithinReads.of_same (hcalls : t.rbtCalls = s.rbtCalls)
    (htime : t.clock + t.pendingTime = s.clock + s.pendingTime) : WithinReads k s t :=
  ⟨hcalls.le.trans (Nat.le_add_right _ _), htime.le.trans (Nat.le_add_right _ _)⟩

/-- Each byte read takes a byte or expires once. -/
theorem Received.withinReads {taken : List Byte} {calls waits : Nat} (h : Received s t taken calls waits)
    (hk : calls ≤ k) : WithinReads k s t := by
  obtain ⟨-, hcount, hcalls, -, -, htime, -⟩ := h
  have hwaits : waits * s.timeoutMs ≤ k * s.timeoutMs := Nat.mul_le_mul_right _ (by omega)
  exact ⟨by omega, by omega⟩

/-- What makes no byte read and only lets the environment's time pass may go before. -/
theorem WithinReads.after {u : State} (hcalls : u.rbtCalls = s.rbtCalls)
    (htime : u.clock + u.pendingTime = s.clock + s.pendingTime) (hT : u.timeoutMs = s.timeoutMs)
    (h : WithinReads k u t) : WithinReads k s t := by
  rwa [WithinReads, hcalls, htime, hT] at h

/-- The environment's turn and a change of the queue go before. -/
theorem WithinReads.after_sync {q : List Byte} (h : WithinReads k { s.sync with rxq := q } t) : WithinReads k s t :=
  h.after (sync_rbtCalls s) (sync_time s) (sync_timeoutMs s)

/-- The environment's turn, the drain and the request go before. -/
theorem WithinReads.after_requested {request : List Byte} (h : WithinReads k (s.requested request) t) :
    WithinReads k s t :=
  h.after (sync_rbtCalls s) (sync_time s) (sync_timeoutMs s)

/-- Where it ends, an attempt made at most `k` byte reads. -/
def Attempt.WithinReads {α : Type} (k : Nat) (s : State) : Attempt α → Prop
  | .ok _ t => Machine.WithinReads k s t
  | .fail _ t => Machine.WithinReads k s t
  | .refuse _ => True
  | .stuck _ => True

/-- What the host is handed takes no time. -/
theorem Attempt.WithinReads.of_deliver {α : Type} {x : Attempt α} {neg : Reply} {shown : α → Reply}
    (hx : x.WithinReads k s) (h : whenConstructed s (deliver neg shown x) = .next t) : Machine.WithinReads k s t := by
  rcases deliver_next (whenConstructed_next h).2 with ⟨_, _, rfl, rfl⟩ | ⟨_, _, rfl, rfl⟩ <;> exact hx

theorem readExpectedReg_withinReads (cmd addr n : Byte) (s : State) :
    (readExpectedReg cmd addr n s).WithinReads (6 + n.toNat) s := by
  rcases readExpectedReg_cases cmd addr n s with
    ⟨-, h⟩ | ⟨-, -, h⟩ | ⟨-, -, _, _, _, _, -, h, hr⟩ | ⟨-, -, _, _, _, _, _, h, hk, hr⟩ <;> rw [h]
  · trivial
  · exact WithinReads.of_same rfl rfl
  · exact hr.withinReads le_rfl
  · exact hr.withinReads (hk.trans (Nat.le_add_right _ _))

theorem readExpectedVar_withinReads (cmd : Byte) (addr : Word) (n : Byte) (s : State) :
    (readExpectedVar cmd addr n s).WithinReads (7 + 2 * n.toNat) s := by
  rcases readExpectedVar_cases cmd addr n s with
    ⟨-, h⟩ | ⟨-, -, h⟩ | ⟨-, -, _, _, _, _, -, h, hr⟩ | ⟨-, -, _, _, _, _, _, h, hk, hr⟩ <;> rw [h]
  · trivial
  · exact WithinReads.of_same rfl rfl
  · exact hr.withinReads le_rfl
  · exact hr.withinReads (hk.trans (Nat.le_add_right _ _))

/-- An attempt made behind a request. -/
theorem Attempt.WithinReads.after_requested {α : Type} {x : Attempt α} {request : List Byte}
    (hx : x.WithinReads k (s.requested request)) : x.WithinReads k s := by
  cases x with
  | ok | fail => exact Machine.WithinReads.after_requested hx
  | refuse | stuck => trivial

theorem readRegister_withinReads (addr n : Byte) (s : State) : (readRegister addr n s).WithinReads (6 + n.toNat) s := by
  rcases readRegister_cases addr n s with ⟨-, h⟩ | ⟨-, -, h⟩ | ⟨-, -, -, h⟩ | ⟨-, -, -, h⟩ <;> rw [h]
  · trivial
  · exact WithinReads.of_same rfl rfl
  · trivial
  · rw [drain_transmit]
    exact (readExpectedReg_withinReads _ _ _ _).after_requested

theorem readVariable_withinReads (addr : Word) (n : Byte) (s : State) :
    (readVariable addr n s).WithinReads (7 + 2 * n.toNat) s := by
  rcases readVariable_cases addr n s with ⟨-, h⟩ | ⟨-, -, h⟩ | ⟨-, -, -, h⟩ | ⟨-, -, -, h⟩ <;> rw [h]
  · trivial
  · exact WithinReads.of_same rfl rfl
  · trivial
  · rw [drain_transmit]
    exact (readExpectedVar_withinReads _ _ _ _).after_requested

/-- A poll makes at most six byte reads and 255 words of two more (R205). -/
theorem pollEvent_withinReads (m : Byte) (s : State) : (pollEvent m s).WithinReads 516 s := by
  rcases pollEvent_cases m s with ⟨-, h⟩ | ⟨-, -, h⟩ | ⟨-, _, later, -, -, h⟩ | ⟨ha, later, -, h⟩ <;> rw [h]
  · exact WithinReads.of_same rfl rfl
  · exact WithinReads.of_same (sync_rbtCalls s) (sync_time s)
  · exact WithinReads.of_same (sync_rbtCalls s) (sync_time s)
  · rcases pollFrame_cases m { s.sync with rxq := later } ((sync_attached s).trans ha) with
      ⟨_, _, _, h, hr⟩ | ⟨_, _, _, _, h, hk, hr⟩ | ⟨_, _, _, _, _, h, -, hk, hr⟩ <;> rw [h]
    · exact (hr.withinReads (by decide)).after_sync
    · exact (hr.withinReads hk).after_sync
    · exact (hr.withinReads hk).after_sync

theorem rbt_withinReads (s : State) : WithinReads 1 s (rbt s).state := by
  cases ha : s.attached with
  | false =>
    rw [rbt_of_not_attached ha]
    exact .of_same rfl rfl
  | true =>
    obtain ⟨_, _, -, hr⟩ := rbt_received s ha
    exact hr.withinReads le_rfl

end Within

end Sys2Proof.Machine
end

section
/-! The obligation of R205: the bound on every read. -/

namespace Sys2Proof.FrameRx

open Sys2Proof Sys2Proof.Machine

/-- Settles O58: the byte reads of each attempt; a wrapper makes those of its read. -/
theorem readsBlockBoundedly : Obligations.ReadsBlockBoundedly := by
  rintro i s t k he (⟨c, a, n, rfl, rfl⟩ | ⟨a, n, rfl, rfl⟩ | ⟨c, a, n, rfl, rfl⟩ | ⟨a, n, rfl, rfl⟩ | ⟨a, rfl, rfl⟩ |
    ⟨a, rfl, rfl⟩ | ⟨a, rfl, rfl⟩ | ⟨rfl, rfl⟩ | ⟨m, rfl, rfl⟩ | ⟨rfl, rfl⟩)
  · exact (readExpectedReg_withinReads c a n s).of_deliver he
  · exact (readRegister_withinReads a n s).of_deliver he
  · exact (readExpectedVar_withinReads c a n s).of_deliver he
  · exact (readVariable_withinReads a n s).of_deliver he
  · exact (readRegister_withinReads a 1 s).of_deliver he
  · exact (readRegister_withinReads a 2 s).of_deliver he
  · exact (readVariable_withinReads a 1 s).of_deliver he
  · exact (readRegister_withinReads Config.rtcNowAddr 7 s).of_deliver he
  · exact (pollEvent_withinReads m s).of_deliver he
  · cases (whenConstructed_next he).2
    exact rbt_withinReads s

end Sys2Proof.FrameRx
end

section
/-! The obligations of spec/44_session.md: what construction and the timeout set, and what they leave alone. -/

namespace Sys2Proof.Session

open Sys2Proof Sys2Proof.Machine

/-- Settles O49: `exec_construct`, the model's initial values being the literals of R160. -/
theorem constructSetsSession : Obligations.ConstructSetsSession :=
  fun h l channel s => exec_construct s h l channel

/-- Settles O50: the guard of U23 is the one condition `setTimeout` has; the value is not looked at. -/
theorem setTimeoutSetsTimeout : Obligations.SetTimeoutSetsTimeout := by
  intro ms s hc
  rw [exec_setTimeout, whenConstructed_of_constructed _ hc]

end Sys2Proof.Session
end

section
/-! SUPPORT. What construction guards (spec 93 U23): every operation on the session or the channel, and nothing else. -/

namespace Sys2Proof.Machine

section Unconstructed
variable {i : Instr} {s : State}

/-- The meaning of every operation on the session or the channel stands behind the one guard of U23. -/
theorem exists_exec_eq_whenConstructed (s : State)
    (hk : i.kind = .send ∨ i.kind = .receive ∨ i.kind = .exchange ∨ i.kind = .setTimeout) :
    ∃ r, exec i s = whenConstructed s r := by
  cases i with
  | sendFrameHeader | sendByte | sendWord | sendBuffer | writeRegister | writeRegisterByte | writeRegisterWord
  | writeVariable | writeVariableWord | setRTC | fRW | fRRQ | fVW | fVRQ | fRWRtcSet => exact ⟨_, rfl⟩
  | readByteWithTimeout | drainInput | pollEvent | readExpectedFrameReg | readExpectedFrameVar => exact ⟨_, rfl⟩
  | readRegister | readRegisterByte | readRegisterWord | readVariable | readVariableWord | getRTC => exact ⟨_, rfl⟩
  | setTimeout => exact ⟨_, rfl⟩
  | _ => rcases hk with hk | hk | hk | hk <;> cases hk

/-- Before `construct` such an operation is refused, whatever its operands are (U23). -/
theorem exec_of_not_constructed (hc : s.constructed = false)
    (hk : i.kind = .send ∨ i.kind = .receive ∨ i.kind = .exchange ∨ i.kind = .setTimeout) :
    exec i s = .refused .notConstructed := by
  obtain ⟨r, he⟩ := exists_exec_eq_whenConstructed s hk
  rw [he, whenConstructed_of_not r hc]

/-- The other instructions complete within their bounds in every state, constructed or not, on any link (log entry 10). -/
theorem exec_completes_unguarded (s : State) (hk : i.kind = .construct ∨ i.kind = .codec ∨ i.kind = .delivery)
    (hb : i.InBounds) : Completes (exec i s) := by
  rcases hk with hk | hk | hk
  · obtain ⟨hi, lo, channel, rfl⟩ := eq_construct_of_kind hk
    exact ⟨_, exec_construct s hi lo channel⟩
  · obtain ⟨r, he⟩ := exec_codec s hk
    exact ⟨_, he⟩
  · rcases exec_delivery s hk with ⟨-, received, he⟩ | ⟨hn, -⟩
    · exact ⟨_, he⟩
    · exact absurd hb hn

end Unconstructed

end Sys2Proof.Machine
end

section
/-! The obligations of reset and of the time before construction. -/

namespace Sys2Proof.Reset

open Sys2Proof Sys2Proof.Machine

/-- Settles O51: the guard of U23 refuses, and the instructions without it complete in every state. -/
theorem nothingRunsBeforeConstruct : Obligations.NothingRunsBeforeConstruct :=
  fun _ s hc => ⟨exec_of_not_constructed hc, exec_completes_unguarded s⟩

/-- Settles O52: `exec_construct` with no header byte given takes the initial values that `State.reset` takes. -/
theorem resetIsDefaultConstruction : Obligations.ResetIsDefaultConstruction := by
  refine ⟨rfl, rfl, rfl, rfl, fun s t channel he => ?_⟩
  cases (exec_construct s none none channel).symm.trans he
  exact ⟨rfl, rfl, rfl, rfl, rfl⟩

end Sys2Proof.Reset
end
